-- ==== Sys2Proof/Word.lean ====
section
/-!
DEFINITION. The word of the machine: "the fixed 16-bit unit of both memory and register storage" (00_scope.md R24).
Word arithmetic is `BitVec` arithmetic: `a + b`, `a - b` and `~~~a` wrap modulo 2^16, as R18 says.
-/

namespace Sys2Proof

/-- A 16-bit unsigned word, bit 0 least significant (00_scope.md R17, R18). Registers, memory words, instruction
words and word addresses are all of this type. -/
abbrev Word := BitVec 16

end Sys2Proof
end

