-- ==== Sys2Proof/Syntax.lean ====
section
/-!
DEFINITION. The instructions, one constructor per row of spec/opcode_table.json, with the operand fields of
30_encoding.md R90 and R96. Bits a format does not use are no part of an instruction (R102; log 13).
-/

namespace Sys2Proof

/-- The general registers R0 to R7 (10_state.md R31). -/
inductive Reg where
  | r0 | r1 | r2 | r3 | r4 | r5 | r6 | r7
deriving DecidableEq, Repr, Inhabited

/-- The instructions. Registers are named, offsets and immediates are the unextended fields of the word. -/
inductive Instr where
  /-- BR: branch if `nzp & COND ≠ 0` (R130). -/
  | br (nzp : BitVec 3) (off9 : BitVec 9)
  /-- ADD, register mode (R140). -/
  | addReg (dr sr1 sr2 : Reg)
  /-- ADD, immediate mode (R141). -/
  | addImm (dr sr1 : Reg) (imm5 : BitVec 5)
  /-- LD, PC-relative load (R160). -/
  | ld (dr : Reg) (off9 : BitVec 9)
  /-- ST, PC-relative store (R161). -/
  | st (sr : Reg) (off9 : BitVec 9)
  /-- JSR, PC-relative subroutine call (R191). -/
  | jsr (off11 : BitVec 11)
  /-- JSRR, subroutine call through a register (R192). -/
  | jsrr (baseR : Reg)
  /-- AND, register mode (R142). -/
  | andReg (dr sr1 sr2 : Reg)
  /-- AND, immediate mode (R143). -/
  | andImm (dr sr1 : Reg) (imm5 : BitVec 5)
  /-- LDR, base+offset load (R164). -/
  | ldr (dr baseR : Reg) (off6 : BitVec 6)
  /-- STR, base+offset store (R165). -/
  | str (sr baseR : Reg) (off6 : BitVec 6)
  /-- RTI, always an error (R210). -/
  | rti
  /-- NOT, bitwise complement (R144). -/
  | not (dr sr : Reg)
  /-- LDI, indirect load (R162). -/
  | ldi (dr : Reg) (off9 : BitVec 9)
  /-- STI, indirect store (R163). -/
  | sti (sr : Reg) (off9 : BitVec 9)
  /-- JMP, jump through a register; `RET` is `JMP R7` (R190, R106). -/
  | jmp (baseR : Reg)
  /-- RES, the reserved opcode, always an error (R211). -/
  | res
  /-- LEA, load effective address (R166). -/
  | lea (dr : Reg) (off9 : BitVec 9)
  /-- TRAP with a vector that none of the six rows below names (R200, R208). -/
  | trap (vect8 : BitVec 8)
  /-- TRAP 0x25, HALT (R201). -/
  | halt
  /-- TRAP 0x20, GETC (R203). -/
  | getc
  /-- TRAP 0x21, OUT (R204). -/
  | out
  /-- TRAP 0x22, PUTS (R205). -/
  | puts
  /-- TRAP 0x23, IN (R206). -/
  | inChar
  /-- TRAP 0x24, PUTSP (R207). -/
  | putsp
deriving DecidableEq, Repr, Inhabited

end Sys2Proof
end

