-- ==== Sys2Proof/WellFormed.lean ====
section
/-!
DEFINITION. Which instructions are well formed. Field widths and register numbers are bounded by their types; the one
check left is that the general TRAP row holds no vector of the six rows that "take priority over it"
(spec/opcode_table.json, TRAP; log 23).
-/

namespace Sys2Proof

/-- The six recognised vectors, 0x20 to 0x25 (44_system.md R200; the first five numbers are D2, log 2). -/
def recognisedVector (v : BitVec 8) : Bool :=
  v == 0x20#8 || v == 0x21#8 || v == 0x22#8 || v == 0x23#8 || v == 0x24#8 || v == 0x25#8

/-- A well-formed instruction: `trap v` stands for an unrecognised `v` only (R208). -/
def Instr.wellFormed : Instr → Bool
  | .trap v => !recognisedVector v
  | .br _ _ | .addReg _ _ _ | .addImm _ _ _ | .ld _ _ | .st _ _ | .jsr _ | .jsrr _ | .andReg _ _ _ | .andImm _ _ _
  | .ldr _ _ _ | .str _ _ _ | .rti | .not _ _ | .ldi _ _ | .sti _ _ | .jmp _ | .res | .lea _ _
  | .halt | .getc | .out | .puts | .inChar | .putsp => true

end Sys2Proof
end

