-- ==== Sys2Proof/Decode.lean ====
section
/-!
DEFINITION. The decoder and, after it, the encoder, both from the field table R90, the formats R96 and the opcode map
R100 of 30_encoding.md. Decoding is total and rejects no word: "No word is undecodable" (R104).
-/

namespace Sys2Proof

/-! ### Fields (R90) -/

/-- `opcode = instr[15:12]`. -/
def fieldOpcode (w : Word) : BitVec 4 := w.extractLsb' 12 4

/-- `DR / SR = instr[11:9]`. -/
def fieldDR (w : Word) : BitVec 3 := w.extractLsb' 9 3

/-- `nzp = instr[11:9]`, the same bits as `DR` (R91). -/
def fieldNzp (w : Word) : BitVec 3 := w.extractLsb' 9 3

/-- `SR1 / BaseR = instr[8:6]`. -/
def fieldSR1 (w : Word) : BitVec 3 := w.extractLsb' 6 3

/-- `imm_flag = instr[5]`. -/
def fieldImmFlag (w : Word) : Bool := w.getLsbD 5

/-- `imm5 = instr[4:0]`. -/
def fieldImm5 (w : Word) : BitVec 5 := w.extractLsb' 0 5

/-- `SR2 = instr[2:0]`. -/
def fieldSR2 (w : Word) : BitVec 3 := w.extractLsb' 0 3

/-- `offset6 = instr[5:0]`. -/
def fieldOffset6 (w : Word) : BitVec 6 := w.extractLsb' 0 6

/-- `PCoffset9 = instr[8:0]`. -/
def fieldPCoffset9 (w : Word) : BitVec 9 := w.extractLsb' 0 9

/-- `PCoffset11 = instr[10:0]`. -/
def fieldPCoffset11 (w : Word) : BitVec 11 := w.extractLsb' 0 11

/-- `jsr_flag = instr[11]`. -/
def fieldJsrFlag (w : Word) : Bool := w.getLsbD 11

/-- `trapvect8 = instr[7:0]`, unsigned (R94). -/
def fieldTrapvect8 (w : Word) : BitVec 8 := w.extractLsb' 0 8

/-- The general register a 3-bit field names: `R<field>` (R97). -/
def Reg.ofBits (b : BitVec 3) : Reg :=
  match b.getLsbD 2, b.getLsbD 1, b.getLsbD 0 with
  | false, false, false => .r0
  | false, false, true  => .r1
  | false, true,  false => .r2
  | false, true,  true  => .r3
  | true,  false, false => .r4
  | true,  false, true  => .r5
  | true,  true,  false => .r6
  | true,  true,  true  => .r7

/-- The 3-bit number of a general register. -/
def Reg.bits : Reg → BitVec 3
  | .r0 => 0b000#3
  | .r1 => 0b001#3
  | .r2 => 0b010#3
  | .r3 => 0b011#3
  | .r4 => 0b100#3
  | .r5 => 0b101#3
  | .r6 => 0b110#3
  | .r7 => 0b111#3

/-! ### Decoding (R100, R101) -/

/-- The instruction of a TRAP word with vector `v`: the six recognised rows first, then the general row (R200). -/
def decodeTrap (v : BitVec 8) : Instr :=
  if v = 0x25#8 then .halt
  else if v = 0x20#8 then .getc
  else if v = 0x21#8 then .out
  else if v = 0x22#8 then .puts
  else if v = 0x23#8 then .inChar
  else if v = 0x24#8 then .putsp
  else .trap v

/-- The instruction of the word `w` whose opcode bits are `b15` to `b12`: the sixteen rows in the order of R100's table.
Matching the four bits leaves no seventeenth case, so the "unknown opcode" arm of R101 does not exist (D24). -/
def decodeByOpcode (b15 b14 b13 b12 : Bool) (w : Word) : Instr :=
  match b15, b14, b13, b12 with
  | false, false, false, false => .br (fieldNzp w) (fieldPCoffset9 w)
  | false, false, false, true =>
    match fieldImmFlag w with
    | false => .addReg (.ofBits (fieldDR w)) (.ofBits (fieldSR1 w)) (.ofBits (fieldSR2 w))
    | true => .addImm (.ofBits (fieldDR w)) (.ofBits (fieldSR1 w)) (fieldImm5 w)
  | false, false, true, false => .ld (.ofBits (fieldDR w)) (fieldPCoffset9 w)
  | false, false, true, true => .st (.ofBits (fieldDR w)) (fieldPCoffset9 w)
  | false, true, false, false =>
    match fieldJsrFlag w with
    | false => .jsrr (.ofBits (fieldSR1 w))
    | true => .jsr (fieldPCoffset11 w)
  | false, true, false, true =>
    match fieldImmFlag w with
    | false => .andReg (.ofBits (fieldDR w)) (.ofBits (fieldSR1 w)) (.ofBits (fieldSR2 w))
    | true => .andImm (.ofBits (fieldDR w)) (.ofBits (fieldSR1 w)) (fieldImm5 w)
  | false, true, true, false => .ldr (.ofBits (fieldDR w)) (.ofBits (fieldSR1 w)) (fieldOffset6 w)
  | false, true, true, true => .str (.ofBits (fieldDR w)) (.ofBits (fieldSR1 w)) (fieldOffset6 w)
  | true, false, false, false => .rti
  | true, false, false, true => .not (.ofBits (fieldDR w)) (.ofBits (fieldSR1 w))
  | true, false, true, false => .ldi (.ofBits (fieldDR w)) (fieldPCoffset9 w)
  | true, false, true, true => .sti (.ofBits (fieldDR w)) (fieldPCoffset9 w)
  | true, true, false, false => .jmp (.ofBits (fieldSR1 w))
  | true, true, false, true => .res
  | true, true, true, false => .lea (.ofBits (fieldDR w)) (fieldPCoffset9 w)
  | true, true, true, true => decodeTrap (fieldTrapvect8 w)

/-- The decoder: the opcode alone selects the behaviour, but for JSR and JSRR and the modes of ADD and AND (R101). -/
def decode (w : Word) : Instr :=
  decodeByOpcode ((fieldOpcode w).getLsbD 3) ((fieldOpcode w).getLsbD 2) ((fieldOpcode w).getLsbD 1)
    ((fieldOpcode w).getLsbD 0) w

/-! ### Encoding (R96, R100, R105) -/

/-- A word in the layout `op d s o`: 4-bit opcode, two register fields and six low bits (R96: OP_REG, OP_IMM, NOT,
BASE6, JMP, JSRR). -/
def wordDSO (op : BitVec 4) (d s : BitVec 3) (o : BitVec 6) : Word := op ++ (d ++ (s ++ o))

/-- A word in the layout `op d o`: 4-bit opcode, one 3-bit field and a 9-bit offset (R96: BR, PC9). -/
def wordDO (op : BitVec 4) (d : BitVec 3) (o : BitVec 9) : Word := op ++ (d ++ o)

/-- A word in the layout `op f o`: 4-bit opcode, bit 11 and an 11-bit offset (R96: JSR). -/
def wordFO (op : BitVec 4) (f : BitVec 1) (o : BitVec 11) : Word := op ++ (f ++ o)

/-- A word in the layout `op ---- v`: 4-bit opcode, the four bits 11 to 8 and the 8-bit vector (R96: TRAP). -/
def wordV (op u : BitVec 4) (v : BitVec 8) : Word := op ++ (u ++ v)

/-- The word of an instruction. Bits its format does not use get the values "an assembler should emit" (R102):
`111111` in NOT, 0 elsewhere. -/
def encode : Instr → Word
  | .br nzp off9 => wordDO 0x0#4 nzp off9
  | .addReg dr sr1 sr2 => wordDSO 0x1#4 dr.bits sr1.bits (0b000#3 ++ sr2.bits)
  | .addImm dr sr1 imm5 => wordDSO 0x1#4 dr.bits sr1.bits (0b1#1 ++ imm5)
  | .ld dr off9 => wordDO 0x2#4 dr.bits off9
  | .st sr off9 => wordDO 0x3#4 sr.bits off9
  | .jsr off11 => wordFO 0x4#4 0b1#1 off11
  | .jsrr baseR => wordDSO 0x4#4 0b000#3 baseR.bits 0b000000#6
  | .andReg dr sr1 sr2 => wordDSO 0x5#4 dr.bits sr1.bits (0b000#3 ++ sr2.bits)
  | .andImm dr sr1 imm5 => wordDSO 0x5#4 dr.bits sr1.bits (0b1#1 ++ imm5)
  | .ldr dr baseR off6 => wordDSO 0x6#4 dr.bits baseR.bits off6
  | .str sr baseR off6 => wordDSO 0x7#4 sr.bits baseR.bits off6
  | .rti => wordDSO 0x8#4 0b000#3 0b000#3 0b000000#6
  | .not dr sr => wordDSO 0x9#4 dr.bits sr.bits 0b111111#6
  | .ldi dr off9 => wordDO 0xA#4 dr.bits off9
  | .sti sr off9 => wordDO 0xB#4 sr.bits off9
  | .jmp baseR => wordDSO 0xC#4 0b000#3 baseR.bits 0b000000#6
  | .res => wordDSO 0xD#4 0b000#3 0b000#3 0b000000#6
  | .lea dr off9 => wordDO 0xE#4 dr.bits off9
  | .trap v => wordV 0xF#4 0b0000#4 v
  | .halt => wordV 0xF#4 0b0000#4 0x25#8
  | .getc => wordV 0xF#4 0b0000#4 0x20#8
  | .out => wordV 0xF#4 0b0000#4 0x21#8
  | .puts => wordV 0xF#4 0b0000#4 0x22#8
  | .inChar => wordV 0xF#4 0b0000#4 0x23#8
  | .putsp => wordV 0xF#4 0b0000#4 0x24#8

/-! ### The opcode table's rows (spec/opcode_table.json) -/

/-- The mask of an instruction's row: the bits the row fixes. -/
def Instr.rowMask : Instr → Word
  | .addReg _ _ _ | .addImm _ _ _ | .andReg _ _ _ | .andImm _ _ _ => 0xF020#16
  | .jsr _ | .jsrr _ => 0xF800#16
  | .halt | .getc | .out | .puts | .inChar | .putsp => 0xF0FF#16
  | .br _ _ | .ld _ _ | .st _ _ | .ldr _ _ _ | .str _ _ _ | .rti | .not _ _ | .ldi _ _ | .sti _ _ | .jmp _ | .res
  | .lea _ _ | .trap _ => 0xF000#16

/-- The match value of an instruction's row: what the fixed bits are. -/
def Instr.rowMatch : Instr → Word
  | .br _ _ => 0x0000#16
  | .addReg _ _ _ => 0x1000#16
  | .addImm _ _ _ => 0x1020#16
  | .ld _ _ => 0x2000#16
  | .st _ _ => 0x3000#16
  | .jsr _ => 0x4800#16
  | .jsrr _ => 0x4000#16
  | .andReg _ _ _ => 0x5000#16
  | .andImm _ _ _ => 0x5020#16
  | .ldr _ _ _ => 0x6000#16
  | .str _ _ _ => 0x7000#16
  | .rti => 0x8000#16
  | .not _ _ => 0x9000#16
  | .ldi _ _ => 0xA000#16
  | .sti _ _ => 0xB000#16
  | .jmp _ => 0xC000#16
  | .res => 0xD000#16
  | .lea _ _ => 0xE000#16
  | .trap _ => 0xF000#16
  | .halt => 0xF025#16
  | .getc => 0xF020#16
  | .out => 0xF021#16
  | .puts => 0xF022#16
  | .inChar => 0xF023#16
  | .putsp => 0xF024#16

/-- The bits an instruction's format uses, fixed bits and fields together: the complement of R102's ignored bits. -/
def Instr.usedBits : Instr → Word
  | .addReg _ _ _ | .andReg _ _ _ => 0xFFE7#16
  | .not _ _ => 0xFFC0#16
  | .jmp _ => 0xF1C0#16
  | .jsrr _ => 0xF9C0#16
  | .rti | .res => 0xF000#16
  | .trap _ | .halt | .getc | .out | .puts | .inChar | .putsp => 0xF0FF#16
  | .br _ _ | .addImm _ _ _ | .andImm _ _ _ | .ld _ _ | .st _ _ | .jsr _ | .ldr _ _ _ | .str _ _ _ | .ldi _ _
  | .sti _ _ | .lea _ _ => 0xFFFF#16

/-! ### The host's view of a table word -/

/-- The one instruction word whose bits are `w`, `nbits` of them given and every bit above them 0. -/
def tableWord (nbits w : Nat) : Word := BitVec.ofNat 16 (w % 2 ^ nbits)

/-- What the decoder reads from that word. Every instruction is one 16-bit word (R89), so a row of more than 16 bits
is none of this machine's (log 24). -/
def decodeTableWord (nbits w : Nat) : Option Instr :=
  if nbits ≤ 16 then some (decode (tableWord nbits w)) else none

end Sys2Proof
end

