-- ==== Sys2Proof/Config.lean ====
section
/-!
DEFINITION. The parameters of the block (00_scope.md R8) and its free values: the character type CHAR, the characters a
console reads, and the effect of the console I/O traps with a capability present (44_system.md R202, D9, D25).

The two parameters with a finite domain are plain data (`Config.Params`), held in State and changed by no step, so that
a statement over all states holds for each of their values (logs 4 and 5). The free values are opaque: nothing can be
proved of them (logs 7 to 10).
-/

namespace Sys2Proof

/-- The three condition flags (10_state.md R35). Their words are in Machine/Flags.lean. -/
inductive Flag where
  | neg | zro | pos
deriving DecidableEq, Repr, Inhabited

/-- `INIT_COND`: what `initialize` writes to COND, "in {0x0000, 0x0002}" (D4). `zro` is the value the spec takes. -/
inductive Config.InitCond where
  | zro | zero
deriving DecidableEq, Repr, Inhabited

/-- The parameters `INIT_COND` and `JSRR_READS_BASE_FIRST` of 00_scope.md R8. -/
structure Config.Params where
  /-- COND after `initialize` (D4). -/
  initCond : Config.InitCond
  /-- Whether JSRR reads BaseR before it writes R7; it matters only for `JSRR R7` (D7). -/
  jsrrReadsBaseFirst : Bool
deriving DecidableEq, Repr, Inhabited

/-- The values R8 says "this spec takes". -/
def Config.Params.default : Config.Params := { initCond := .zro, jsrrReadsBaseFirst := false }

/-- The state of an injected console I/O capability, coded as a number: its type is OPEN (D9; log 10). -/
abbrev Config.IoState := Nat

/-- `CHAR`, the character type of the console I/O capability (00_scope.md R8, D25): OPEN, "No width or encoding given".
No body: nothing is known of it (log 10). -/
opaque Config.CharType : Type

/-- The free draw for a character read (D9): what the capability's operation "read one character" (R15) gives in call
number `draw`, or `none` where that call reads none (log 10). No body. -/
opaque Config.charRead (draw : Nat) : Option Config.CharType

/-- What one call of the console I/O capability does: the `(regs', io_state')` of D9, or a failure (I11).
`cond = none` leaves COND as it is; `some f` makes it the flag `f` (log 9). -/
inductive Config.IoResponse where
  | completes (gprs : Reg → Word) (cond : Option Flag) (ioState : Config.IoState)
  | fails
deriving Inhabited

/-- The free value `io_trap_effect(vector, regs, mem, io_state)` of D9: what the capability does for a trap vector,
given the general registers, PC, COND, the memory's contents, its own state, the number `draw` of calls made before and
the character read in this call ("a free draw for characters read"). `draw` makes each call a draw of its own. No body:
nothing is known of it. -/
opaque Config.ioTrapEffect (vector : BitVec 8) (gprs : Reg → Word) (pc cond : Word) (mem : Word → Word)
    (ioState : Config.IoState) (draw : Nat) (read : Option Config.CharType) : Config.IoResponse

end Sys2Proof
end

