-- ==== Sys2Proof/Machine/State.lean ====
section
/-!
DEFINITION. The state of the machine as plain data, the reasons a step can stop, and the state after construction.
10_state.md R30 lists "the block's complete architectural state"; INVENTORY.md, State, holds this file against it.
-/

namespace Sys2Proof.Machine

/-- Which access of an instruction an error is about: LDI and STI access the pointer and then the data (R168, R221). -/
inductive AccessStage where
  | pointer
  | data
deriving DecidableEq, Repr

/-- The error kinds of 60_exceptions.md R221, with the payload each one records. -/
inductive ErrorKind where
  /-- TRAP with a vector not in 0x20 to 0x25 (R208). -/
  | unknownTrapVector (v : BitVec 8)
  /-- Opcode 0x8 (R210). -/
  | rtiUnsupported
  /-- Opcode 0xD (R211). -/
  | reservedOpcode
  /-- "value not in 0–15" (R101): unreachable, no definition raises it (D24). -/
  | unknownOpcode (op : Nat)
  /-- A data access outside memory. Only the bounds-checked interface of Machine/Ops.lean answers it, and for no 16-bit
  address (R63, R168; its stage there is log 25). -/
  | memoryBounds (stage : AccessStage) (addr : Nat)
  /-- A fetch outside memory: unreachable, no definition raises it (R66). -/
  | fetchFailure (pc : Word)
  /-- A register identifier outside R0 to R7, PC, COND; the host interface only (R34). -/
  | registerBounds (id : Nat)
  /-- A program that would run past 0xFFFF; the host interface only (R65, R252). -/
  | loadOverflow (start : Word) (len : Nat)
  /-- A refused setup register write; the host interface only (R272). -/
  | invalidRegisterWrite (id : Nat) (v : Word)
deriving DecidableEq, Repr

/-- The controller's status (10_state.md R46): four values, the last carrying the error that `step` surfaced to the
caller (60_exceptions.md R223; log 11). -/
inductive Status where
  | uninitialized
  | running
  | halted
  | errored (kind : ErrorKind)
deriving DecidableEq, Repr

/-- The general registers R0 to R7, 16 bits each (10_state.md R31). -/
structure Gprs where
  r0 : Word
  r1 : Word
  r2 : Word
  r3 : Word
  r4 : Word
  r5 : Word
  r6 : Word
  r7 : Word
deriving DecidableEq, Repr

/-- The memory: the words that are not 0x0000, as pairs of word address and word, in one canonical form
(`Memory.wf`, Machine/Ops.lean). An address not listed reads 0x0000, the reset contents (20_memory.md R60, R61; log 14). -/
abbrev Memory := List (Nat × Word)

/-- The parameter `IO` (00_scope.md R8): no console I/O capability, or one with its own state (log 7). -/
inductive Io where
  | absent
  | present (ioState : Config.IoState)
deriving DecidableEq, Repr

/-- The state. The first six fields are 10_state.md R30; the running flag is `status` seen through `State.running`
(R46; log 12). The last three are the block's parameters and the model's own counter of free draws. -/
structure State where
  /-- R0 to R7 (R31). -/
  regs : Gprs
  /-- The program counter, a word address (R33). -/
  pc : Word
  /-- The condition-code register (R35). -/
  cond : Word
  /-- The memory (20_memory.md R60). -/
  mem : Memory
  /-- The controller's status (R46). -/
  status : Status
  /-- The instruction counter, "an unbounded natural number" (R47). -/
  count : Nat
  /-- INIT_COND and JSRR_READS_BASE_FIRST (00_scope.md R8): no step and no host operation changes them. -/
  config : Config.Params
  /-- IO (00_scope.md R8). -/
  io : Io
  /-- The model's own: how many I/O effects have been drawn (log 7). -/
  ioDraws : Nat
deriving DecidableEq, Repr

/-- Why a step can stop the model. The errors of the spec are no faults: they lead to a next state (log 11). -/
inductive Fault where
  /-- Raised by the five I/O traps when a console I/O capability is present and fails. The spec leaves that OPEN (44_system.md
  R202; 93_implementation_defined.md I11: "a model that cannot state it should `fault`"). Safe: nothing is claimed of
  the state after it (log 8). -/
  | ioCapabilityFailed (vector : BitVec 8)
deriving DecidableEq, Repr

/-- Why an instruction can be refused. -/
inductive Refusal where
  /-- An instruction without a meaning yet, by its mnemonic. No arm of `exec` raises it: every row is modelled. Safe. -/
  | notModelled (mnemonic : String)
deriving DecidableEq, Repr

/-- All general registers 0x0000. -/
def Gprs.zero : Gprs := { r0 := 0, r1 := 0, r2 := 0, r3 := 0, r4 := 0, r5 := 0, r6 := 0, r7 := 0 }

/-- The state after construction or `reset()`, "Created zero-initialized" (70_reset_and_hazards.md R250; 10_state.md
R50), with the parameters at the values the spec takes. -/
def State.reset : State where
  regs := Gprs.zero
  pc := 0x0000#16
  cond := 0x0000#16
  mem := []
  status := .uninitialized
  count := 0
  config := Config.Params.default
  io := .absent
  ioDraws := 0

end Sys2Proof.Machine
end

