-- ==== Sys2Proof/Machine/Flags.lean ====
section
/-!
DEFINITION. The condition codes: COND's encoding, `update_condition_code`, `is_flag_set` and the test of BR
(10_state.md R35 to R39; 40_branch.md R130).
-/

namespace Sys2Proof.Machine

/-- `NEG = 0x0004` (R35; the numbers are D3, log 3). -/
def flagNEG : Word := 0x0004#16

/-- `ZRO = 0x0002` (R35). -/
def flagZRO : Word := 0x0002#16

/-- `POS = 0x0001` (R35). -/
def flagPOS : Word := 0x0001#16

/-- The word of a flag. -/
def flagWord : Flag → Word
  | .neg => flagNEG
  | .zro => flagZRO
  | .pos => flagPOS

/-- "exactly one of the three condition bits" is set in `c` (R36): `c` is one of the three flag values. -/
abbrev IsFlagValue (c : Word) : Prop := c = flagNEG ∨ c = flagZRO ∨ c = flagPOS

/-- The flag of a value's sign, as `update_condition_code` finds it (R37). -/
def signFlag (v : Word) : Flag :=
  if v = 0x0000#16 then .zro
  else if v.getLsbD 15 then .neg
  else .pos

/-- `setcc(v)`, `update_condition_code(v)` (R37). -/
def State.setcc (s : State) (v : Word) : State := { s with cond := flagWord (signFlag v) }

/-- `get_condition_code()` (R38). -/
def State.getConditionCode (s : State) : Word := s.cond

/-- `is_flag_set(flag)`: `(cond & flag) ≠ 0` (R39). -/
def State.isFlagSet (s : State) (f : Flag) : Bool := s.cond &&& flagWord f != 0x0000#16

/-- BR's test: the NZP field AND COND is non-zero (R130). `nzp` sits at bits 2 to 0 of COND (R35). -/
def branchTaken (nzp : BitVec 3) (cond : Word) : Bool := nzp.setWidth 16 &&& cond != 0x0000#16

/-- The word `INIT_COND` stands for (D4). -/
def initCondWord : Config.InitCond → Word
  | .zro => flagZRO
  | .zero => 0x0000#16

end Sys2Proof.Machine
end

