-- ==== Sys2Proof/Machine/Ops.lean ====
section
/-!
DEFINITION. The operations over registers and memory: the register file (10_state.md R34 to R42), the memory
controller (20_memory.md R60 to R66), the executor's outcomes (60_exceptions.md R220 to R222) and the console I/O call
(44_system.md R202).
-/

namespace Sys2Proof.Machine

/-! ### General registers -/

/-- Reads general register `r`. -/
def Gprs.get (g : Gprs) : Reg → Word
  | .r0 => g.r0
  | .r1 => g.r1
  | .r2 => g.r2
  | .r3 => g.r3
  | .r4 => g.r4
  | .r5 => g.r5
  | .r6 => g.r6
  | .r7 => g.r7

/-- Writes general register `r`. -/
def Gprs.set (g : Gprs) (r : Reg) (v : Word) : Gprs :=
  match r with
  | .r0 => { g with r0 := v }
  | .r1 => { g with r1 := v }
  | .r2 => { g with r2 := v }
  | .r3 => { g with r3 := v }
  | .r4 => { g with r4 := v }
  | .r5 => { g with r5 := v }
  | .r6 => { g with r6 := v }
  | .r7 => { g with r7 := v }

/-- The registers whose contents a function gives. -/
def Gprs.ofFn (f : Reg → Word) : Gprs :=
  { r0 := f .r0, r1 := f .r1, r2 := f .r2, r3 := f .r3, r4 := f .r4, r5 := f .r5, r6 := f .r6, r7 := f .r7 }

/-- `x[i]` read (00_scope.md R20). -/
def State.reg (s : State) (r : Reg) : Word := s.regs.get r

/-- `x[i] <- v` (R20). No register is hard-wired (10_state.md R31). -/
def State.setReg (s : State) (r : Reg) (v : Word) : State := { s with regs := s.regs.set r v }

/-! ### PC, status, counter -/

/-- `get_pc()` (10_state.md R40; 70_reset_and_hazards.md R270). -/
def State.getPc (s : State) : Word := s.pc

/-- `set_pc(v)`, `pc <- v` (10_state.md R40). -/
def State.setPc (s : State) (v : Word) : State := { s with pc := v }

/-- `increment_pc()`: `pc <- pc + 1` modulo 2^16 (R41). -/
def State.incrementPc (s : State) : State := s.setPc (s.pc + 1)

/-- `cond <- v`, the register file's plain write of COND (R34). -/
def State.setCond (s : State) (v : Word) : State := { s with cond := v }

/-- The running flag: "`running` is true exactly when the status is `Running`" (R30, R46). -/
def State.running (s : State) : Bool := s.status == .running

/-- `status <- st`, and with it the running flag. -/
def State.setStatus (s : State) (st : Status) : State := { s with status := st }

/-- `count <- n`. -/
def State.setCount (s : State) (n : Nat) : State := { s with count := n }

/-! ### Memory -/

/-- What an address that is not listed reads as: memory is "zero-initialized at construction" (20_memory.md R60). -/
def Memory.unlisted : Word := 0x0000#16

/-- The canonical form: addresses strictly rising, all of them below 65536, no word equal to what an unlisted address
reads as. -/
abbrev Memory.wf (m : Memory) : Prop :=
  m.Pairwise (fun c d => c.1 < d.1) ∧ ∀ c ∈ m, c.1 < 65536 ∧ c.2 ≠ Memory.unlisted

/-- The word at address `a` (R61). -/
def Memory.read : Memory → Nat → Word
  | [], _ => Memory.unlisted
  | (k, u) :: m, a => if k = a then u else Memory.read m a

/-- The memory without an entry for `a`. -/
def Memory.dropAddr : Memory → Nat → Memory
  | [], _ => []
  | (k, u) :: m, a => if k = a then Memory.dropAddr m a else (k, u) :: Memory.dropAddr m a

/-- The memory with the entry `(a, v)` before the first entry of a higher address. -/
def Memory.addEntry : Memory → Nat → Word → Memory
  | [], a, v => [(a, v)]
  | (k, u) :: m, a, v => if a < k then (a, v) :: (k, u) :: m else (k, u) :: Memory.addEntry m a v

/-- `M[a] <- v` (R62), in canonical form: writing what an unlisted address reads as removes the entry. -/
def Memory.write (m : Memory) (a : Nat) (v : Word) : Memory :=
  if v = Memory.unlisted then m.dropAddr a else (m.dropAddr a).addEntry a v

/-- `MemRead(a, 1)`, total on 16-bit addresses (00_scope.md R21; 20_memory.md R63). -/
def State.memRead (s : State) (a : Word) : Word := s.mem.read a.toNat

/-- `MemWrite(a, 1, v)`, total on 16-bit addresses (R21, R63). -/
def State.memWrite (s : State) (a v : Word) : State := { s with mem := s.mem.write a.toNat v }

/-- The bounds-checked `read(address)` of the memory interface: "word or none" (R61). DESIGN CHOICE (log 25): its "none"
is answered as MemoryBounds, and with stage `data`; the spec gives a stage for LDI and STI only (60_exceptions.md R221). -/
def Memory.readChecked (m : Memory) (a : Nat) : Except ErrorKind Word :=
  if a < 65536 then .ok (m.read a) else .error (.memoryBounds .data a)

/-- The bounds-checked `write(address, value)` of the memory interface: "success or bounds-failure" (R62). DESIGN CHOICE
(log 25): the failure is MemoryBounds with stage `data`, where the spec names no stage (60_exceptions.md R221). -/
def Memory.writeChecked (m : Memory) (a : Nat) (v : Word) : Except ErrorKind Memory :=
  if a < 65536 then .ok (m.write a v) else .error (.memoryBounds .data a)

/-- The words of `ws` written from address `a` up (R65). -/
def Memory.writeWords : Memory → Nat → List Word → Memory
  | m, _, [] => m
  | m, a, w :: ws => Memory.writeWords (m.write a w) (a + 1) ws

/-- `load_program(start, words)` (R65): the overflow check, computed without wrapping, comes before any write (D11). -/
def Memory.loadProgram (m : Memory) (start : Word) (words : List Word) : Except ErrorKind Memory :=
  if start.toNat + words.length > 65536 then .error (.loadOverflow start words.length)
  else .ok (m.writeWords start.toNat words)

/-! ### Fetch -/

/-- The word `fetch_instruction` returns: `M[pc]` (R66). -/
def State.fetchWord (s : State) : Word := s.memRead s.pc

/-- `fetch_instruction`: the word at PC and the state with PC advanced; it never fails (R66). -/
def State.fetchInstruction (s : State) : Word × State := (s.fetchWord, s.incrementPc)

/-! ### Outcomes of the executor -/

/-- `return Continue`: the instruction completed and the machine keeps running (60_exceptions.md R220). -/
def continueWith (s : State) : Host.Outcome State Fault Refusal := .next s

/-- `return Halt` and the controller's reaction to it: `running <- false; status <- Halted` (44_system.md R201;
70_reset_and_hazards.md R260; log 12). -/
def haltWith (s : State) : Host.Outcome State Fault Refusal := .next (s.setStatus .halted)

/-- `raise Error(kind)` and the controller's reaction to it: the one way an instruction takes an error. Nothing of the
instruction is written, PC keeps the fetch's advance, `running <- false; status <- Errored`, and the kind goes to the
host (60_exceptions.md R222, R226; 70_reset_and_hazards.md R260; log 11). There is no return from it beside
`initialize` and `reset()` (R227). -/
def raiseError (kind : ErrorKind) (s : State) : Host.Outcome State Fault Refusal := .next (s.setStatus (.errored kind))

/-! ### Results and I/O -/

/-- `x[DR] <- r; setcc(r)`: how ADD, AND, NOT, LD, LDI, LDR and LEA end (10_state.md R43). -/
def State.writeResult (s : State) (dr : Reg) (r : Word) : State := (s.setReg dr r).setcc r

/-- The state after the capability answered: the general registers it gives, COND left or one of the flags, its own
state, one more draw; PC, memory, status and counter stay (44_system.md R202, D8, D9; log 9). -/
def State.ioCompleted (s : State) (gprs : Reg → Word) (cond : Option Flag) (ioState : Config.IoState) : State :=
  { s with
    regs := Gprs.ofFn gprs
    cond := (cond.map flagWord).getD s.cond
    io := .present ioState
    ioDraws := s.ioDraws + 1 }

/-- The capability's answer to the trap `vector` in state `s`, its own state being `ioState`: the free value of D9, with
the character that this call's draw reads (log 10). -/
def State.ioResponse (s : State) (vector : BitVec 8) (ioState : Config.IoState) : Config.IoResponse :=
  Config.ioTrapEffect vector s.reg s.pc s.cond s.memRead ioState s.ioDraws
    (Config.charRead s.ioDraws)

/-- `io_trap(vector)` (44_system.md R202): (a) a no-op that continues when no capability is present; (b) one call of
the capability when one is, then `Continue`. A failing capability, which the spec leaves OPEN, is a fault (I11; log 8). -/
def ioTrap (vector : BitVec 8) (s : State) : Host.Outcome State Fault Refusal :=
  match s.io with
  | .absent => continueWith s
  | .present ioState =>
    match s.ioResponse vector ioState with
    | .completes gprs cond ioState' => continueWith (s.ioCompleted gprs cond ioState')
    | .fails => .fault (.ioCapabilityFailed vector)

end Sys2Proof.Machine
end

