-- ==== Sys2Proof/Machine/Operands.lean ====
section
/-!
DEFINITION. Sign extension and the operand and address forms: 30_encoding.md R92, R97, R98 and 42_load_store.md R167.
`pc` is the PC the fetch advanced (10_state.md R33), and every addition wraps modulo 2^16 (00_scope.md R18).
-/

namespace Sys2Proof.Machine

/-- `sext_N` (R92): the bits above `N - 1` copy bit `N - 1`. -/
def sext {n : Nat} (f : BitVec n) : Word := f.signExtend 16

/-- `zext_N` (00_scope.md R19). -/
def zext {n : Nat} (f : BitVec n) : Word := f.setWidth 16

/-- The second operand of ADD and AND, `imm_flag = 0`: `x[SR2]` (R97). -/
def operandReg (s : State) (sr2 : Reg) : Word := s.reg sr2

/-- The second operand of ADD and AND, `imm_flag = 1`: `sext_5(imm5)` (R97). -/
def operandImm (imm5 : BitVec 5) : Word := sext imm5

/-- PC-relative address: `pc + sext_9(PCoffset9)` (R167 a). BR uses it as its target (R97). -/
def addrPC9 (s : State) (off9 : BitVec 9) : Word := s.pc + sext off9

/-- PC-relative target of JSR: `pc + sext_11(PCoffset11)` (R98). -/
def addrPC11 (s : State) (off11 : BitVec 11) : Word := s.pc + sext off11

/-- Indirect address: the word at the PC-relative pointer (R167 b). -/
def addrIndirect (s : State) (off9 : BitVec 9) : Word := s.memRead (addrPC9 s off9)

/-- Base+offset address: `x[BaseR] + sext_6(offset6)`; the base register is not modified (R167 c). -/
def addrBase6 (s : State) (baseR : Reg) (off6 : BitVec 6) : Word := s.reg baseR + sext off6

end Sys2Proof.Machine
end

