-- ==== Sys2Proof/Machine/Controller.lean ====
section
/-!
DEFINITION. The host's operations on the VM controller that run no instruction: `initialize`, `reset()`, `halt()`, the
setup register write and the introspection reads (70_reset_and_hazards.md §1, R265, §3). The host acts between steps
only (R276, D28).
-/

namespace Sys2Proof.Machine

/-! ### Register identifiers (10_state.md R34, R42) -/

/-- A register identifier: "one of {R0..R7, PC, COND}". -/
inductive RegId where
  | gpr (r : Reg)
  | pc
  | cond
deriving DecidableEq, Repr

/-- The identifier with a number: R0 to R7 are 0 to 7, PC is 8, COND is 9, every other number is out of range (R42,
D5; log 19). -/
def RegId.ofNat : Nat → Option RegId
  | 0 => some (.gpr .r0)
  | 1 => some (.gpr .r1)
  | 2 => some (.gpr .r2)
  | 3 => some (.gpr .r3)
  | 4 => some (.gpr .r4)
  | 5 => some (.gpr .r5)
  | 6 => some (.gpr .r6)
  | 7 => some (.gpr .r7)
  | 8 => some .pc
  | 9 => some .cond
  | _ => none

/-- The register file's contents at an identifier. -/
def State.readId (s : State) : RegId → Word
  | .gpr r => s.reg r
  | .pc => s.pc
  | .cond => s.cond

/-- The register file's contents at an identifier replaced. -/
def State.writeId (s : State) (id : RegId) (v : Word) : State :=
  match id with
  | .gpr r => s.setReg r v
  | .pc => s.setPc v
  | .cond => s.setCond v

/-- `read(id)` of the register file, and the host's `get_register(id)` (R34; 70 R271). -/
def State.readRegister (s : State) (id : Nat) : Except ErrorKind Word :=
  match RegId.ofNat id with
  | some r => .ok (s.readId r)
  | none => .error (.registerBounds id)

/-- `write(id, v)` of the register file (R34). -/
def State.writeRegister (s : State) (id : Nat) (v : Word) : Except ErrorKind State :=
  match RegId.ofNat id with
  | some r => .ok (s.writeId r v)
  | none => .error (.registerBounds id)

/-- The host's setup write `set_register(id, v)`: any value to R0 to R7 and PC, a flag value to COND, everything else
refused with nothing changed (70 R272, D18; log 19). -/
def State.setRegister (s : State) (id : Nat) (v : Word) : Except ErrorKind State :=
  match RegId.ofNat id with
  | some (.gpr r) => .ok (s.setReg r v)
  | some .pc => .ok (s.setPc v)
  | some .cond => if IsFlagValue v then .ok (s.setCond v) else .error (.invalidRegisterWrite id v)
  | none => .error (.invalidRegisterWrite id v)

/-! ### initialize, reset, halt -/

/-- The effect of a successful `initialize(start, words)`, in the order of R251. -/
def State.startProgram (s : State) (start : Word) (words : List Word) : State :=
  { s with
    pc := start
    mem := s.mem.writeWords start.toNat words
    cond := initCondWord s.config.initCond
    count := 0
    status := .running }

/-- `initialize(start, words)`: the overflow check runs before any write, and a failure changes nothing (R251, R252);
accepted in every status (R253, D20; log 18). -/
def State.initializeVm (s : State) (start : Word) (words : List Word) : Except ErrorKind State :=
  if start.toNat + words.length > 65536 then .error (.loadOverflow start words.length)
  else .ok (s.startProgram start words)

/-- `reset()`: register file and memory "freshly zero-initialized", the controller as after construction (R254). The
block's parameters and the console, which are outside it, stay (log 6). -/
def State.resetVm (s : State) : State :=
  { State.reset with config := s.config, io := s.io, ioDraws := s.ioDraws }

/-- `halt()`: a running VM becomes Halted, nothing else changes (R265, D23). -/
def State.haltVm (s : State) : State := if s.running then s.setStatus .halted else s

/-! ### Introspection (R270 to R275) -/

/-- `read_memory(address)` (R273). -/
def State.readMemory (s : State) (a : Word) : Word := s.memRead a

/-- `get_instruction_count()` (R274). -/
def State.getInstructionCount (s : State) : Nat := s.count

/-- `is_running()` (R274). -/
def State.isRunning (s : State) : Bool := s.running

/-- The content of the state snapshot: "exactly those 12 values" (R275). -/
structure Snapshot where
  pc : Word
  regs : Gprs
  cond : Word
  count : Nat
  running : Bool
deriving DecidableEq, Repr

/-- The state snapshot (R275). -/
def State.snapshot (s : State) : Snapshot :=
  { pc := s.pc, regs := s.regs, cond := s.cond, count := s.count, running := s.running }

end Sys2Proof.Machine
end

