-- ==== Sys2Proof/Machine/Cycle.lean ====
section
/-!
DEFINITION. What the controller adds around the executor in one step, and the value `step()` returns
(70_reset_and_hazards.md R260, R261).
-/

namespace Sys2Proof.Machine

/-- `count <- count + 1` after the executor answered, whatever the outcome (R260, D10; log 16). -/
def countStep : Host.Outcome State Fault Refusal → Host.Outcome State Fault Refusal
  | .next s => .next (s.setCount (s.count + 1))
  | .fault f => .fault f
  | .refused r => .refused r

/-- The three values `step()`, `run()` and `run_for(n)` return to the host (60_exceptions.md R220). -/
inductive StepValue where
  | continued
  | halted
  | error (kind : ErrorKind)
deriving DecidableEq, Repr

/-- The value a step from `s` to `t` returned: `Halt` on a VM that is not running (R261), otherwise what the outcome
left in the status (R260). No step of a running VM ends Uninitialized (R262). -/
def stepValue (s t : State) : StepValue :=
  if s.running then
    match t.status with
    | .running => .continued
    | .halted | .uninitialized => .halted
    | .errored kind => .error kind
  else .halted

end Sys2Proof.Machine
end

