-- ==== Sys2Proof/Machine/Branch.lean ====
section
/-!
DEFINITION. The conditional branch, 40_branch.md.
-/

namespace Sys2Proof.Machine

/-- BR (R130, R131): reads COND and PC only. -/
def execBr (nzp : BitVec 3) (off9 : BitVec 9) (s : State) : Host.Outcome State Fault Refusal :=
  continueWith (if branchTaken nzp s.cond then s.setPc (addrPC9 s off9) else s)

end Sys2Proof.Machine
end

