-- ==== Sys2Proof/Machine/Jump.lean ====
section
/-!
DEFINITION. Jumps and subroutine calls, 43_jump.md.
-/

namespace Sys2Proof.Machine

/-- JMP (R190). -/
def execJmp (baseR : Reg) (s : State) : Host.Outcome State Fault Refusal :=
  continueWith (s.setPc (s.reg baseR))

/-- JSR (R191): R7 gets the advanced PC before PC is altered. -/
def execJsr (off11 : BitVec 11) (s : State) : Host.Outcome State Fault Refusal :=
  continueWith ((s.setReg .r7 s.pc).setPc (addrPC11 s off11))

/-- JSRR (R192): by default R7 is written first and BaseR read after it; with JSRR_READS_BASE_FIRST, BaseR is read
first (D7; log 5). -/
def execJsrr (baseR : Reg) (s : State) : Host.Outcome State Fault Refusal :=
  let linked := s.setReg .r7 s.pc
  continueWith (linked.setPc (if s.config.jsrrReadsBaseFirst then s.reg baseR else linked.reg baseR))

end Sys2Proof.Machine
end

