-- ==== Sys2Proof/Machine/LoadStore.lean ====
section
/-!
DEFINITION. Loads, stores and LEA, 42_load_store.md. No bounds failure can happen (R168), so none of them raises.
-/

namespace Sys2Proof.Machine

/-- LD (R160). -/
def execLd (dr : Reg) (off9 : BitVec 9) (s : State) : Host.Outcome State Fault Refusal :=
  continueWith (s.writeResult dr (s.memRead (addrPC9 s off9)))

/-- ST (R161). -/
def execSt (sr : Reg) (off9 : BitVec 9) (s : State) : Host.Outcome State Fault Refusal :=
  continueWith (s.memWrite (addrPC9 s off9) (s.reg sr))

/-- LDI (R162): the pointer, then the word it points at. -/
def execLdi (dr : Reg) (off9 : BitVec 9) (s : State) : Host.Outcome State Fault Refusal :=
  continueWith (s.writeResult dr (s.memRead (addrIndirect s off9)))

/-- STI (R163): the pointer is read before the write. -/
def execSti (sr : Reg) (off9 : BitVec 9) (s : State) : Host.Outcome State Fault Refusal :=
  continueWith (s.memWrite (addrIndirect s off9) (s.reg sr))

/-- LDR (R164): the address is formed from the old base value, also when `DR = BaseR`. -/
def execLdr (dr baseR : Reg) (off6 : BitVec 6) (s : State) : Host.Outcome State Fault Refusal :=
  continueWith (s.writeResult dr (s.memRead (addrBase6 s baseR off6)))

/-- STR (R165). -/
def execStr (sr baseR : Reg) (off6 : BitVec 6) (s : State) : Host.Outcome State Fault Refusal :=
  continueWith (s.memWrite (addrBase6 s baseR off6) (s.reg sr))

/-- LEA (R166): no memory access; COND from the computed address. -/
def execLea (dr : Reg) (off9 : BitVec 9) (s : State) : Host.Outcome State Fault Refusal :=
  continueWith (s.writeResult dr (addrPC9 s off9))

end Sys2Proof.Machine
end

