-- ==== Sys2Proof/Machine/Operate.lean ====
section
/-!
DEFINITION. ADD, AND and NOT, 41_operate.md. Arithmetic wraps modulo 2^16 and no carry or overflow is recorded (R145).
-/

namespace Sys2Proof.Machine

/-- ADD, register mode (R140). -/
def execAddReg (dr sr1 sr2 : Reg) (s : State) : Host.Outcome State Fault Refusal :=
  continueWith (s.writeResult dr (s.reg sr1 + operandReg s sr2))

/-- ADD, immediate mode (R141). -/
def execAddImm (dr sr1 : Reg) (imm5 : BitVec 5) (s : State) : Host.Outcome State Fault Refusal :=
  continueWith (s.writeResult dr (s.reg sr1 + operandImm imm5))

/-- AND, register mode (R142). -/
def execAndReg (dr sr1 sr2 : Reg) (s : State) : Host.Outcome State Fault Refusal :=
  continueWith (s.writeResult dr (s.reg sr1 &&& operandReg s sr2))

/-- AND, immediate mode (R143). -/
def execAndImm (dr sr1 : Reg) (imm5 : BitVec 5) (s : State) : Host.Outcome State Fault Refusal :=
  continueWith (s.writeResult dr (s.reg sr1 &&& operandImm imm5))

/-- NOT (R144). -/
def execNot (dr sr : Reg) (s : State) : Host.Outcome State Fault Refusal :=
  continueWith (s.writeResult dr (~~~(s.reg sr)))

end Sys2Proof.Machine
end

