-- ==== Sys2Proof/Machine/System.lean ====
section
/-!
DEFINITION. TRAP, RTI and RES, 44_system.md. TRAP writes no R7 and reads no vector table (R200, D8; log 20).
-/

namespace Sys2Proof.Machine

/-- HALT, TRAP 0x25 (R201). -/
def execHalt (s : State) : Host.Outcome State Fault Refusal := haltWith s

/-- GETC, TRAP 0x20 (R202, R203). -/
def execGetc (s : State) : Host.Outcome State Fault Refusal := ioTrap 0x20#8 s

/-- OUT, TRAP 0x21 (R202, R204). -/
def execOut (s : State) : Host.Outcome State Fault Refusal := ioTrap 0x21#8 s

/-- PUTS, TRAP 0x22 (R202, R205). -/
def execPuts (s : State) : Host.Outcome State Fault Refusal := ioTrap 0x22#8 s

/-- IN, TRAP 0x23 (R202, R206). -/
def execInChar (s : State) : Host.Outcome State Fault Refusal := ioTrap 0x23#8 s

/-- PUTSP, TRAP 0x24 (R202, R207). -/
def execPutsp (s : State) : Host.Outcome State Fault Refusal := ioTrap 0x24#8 s

/-- TRAP by vector, the whole match of R200; the last case is R208. A well-formed `trap v` is always the last case. -/
def execTrap (v : BitVec 8) (s : State) : Host.Outcome State Fault Refusal :=
  if v = 0x25#8 then haltWith s
  else if v = 0x20#8 ∨ v = 0x21#8 ∨ v = 0x22#8 ∨ v = 0x23#8 ∨ v = 0x24#8 then ioTrap v s
  else raiseError (.unknownTrapVector v) s

/-- RTI (R210): "always an Error — interrupt return is unsupported". -/
def execRti (s : State) : Host.Outcome State Fault Refusal := raiseError .rtiUnsupported s

/-- RES (R211): "always an Error — reserved opcode." -/
def execRes (s : State) : Host.Outcome State Fault Refusal := raiseError .reservedOpcode s

end Sys2Proof.Machine
end

