-- ==== Sys2Proof/Machine/Step.lean ====
section
/-!
DEFINITION. One step of the controller (70_reset_and_hazards.md R260, R261), and the state in which a given word is the
next instruction.
-/

namespace Sys2Proof.Machine

/-- `step()`. On a running VM: fetch (advancing PC), execute, count. Otherwise "an idempotent no-op" (R261). -/
def step (s : State) : Host.Outcome State Fault Refusal :=
  if s.running then countStep (exec (decode s.fetchInstruction.1) s.fetchInstruction.2) else continueWith s

/-- `s` with the word of a table row where `step` fetches its next instruction. On a running VM that is the memory
word at PC. A VM that is not running fetches nothing, and only `initialize` makes it run (R261, R280): there it is
`initialize(pc, [word])` (log 17). -/
def State.withFetchWord (s : State) (nbits w : Nat) : State :=
  if s.running then s.memWrite s.pc (tableWord nbits w) else s.startProgram s.pc [tableWord nbits w]

end Sys2Proof.Machine
end

