-- ==== Sys2Proof/Machine/Run.lean ====
section
/-!
DEFINITION. `run_for(n)` and `run()` (70_reset_and_hazards.md R263, R264), with the value each returns.
-/

namespace Sys2Proof.Machine

/-- The loop of `run_for`: at most `n` further steps, `last` being the value of the step before (R264). -/
def runForLoop : Nat → StepValue → State → Host.Outcome (State × StepValue) Fault Refusal
  | 0, last, s => .next (s, last)
  | n + 1, last, s =>
    if s.running then
      match step s with
      | .next t => runForLoop n (stepValue s t) t
      | .fault f => .fault f
      | .refused r => .refused r
    else .next (s, last)

/-- `run_for(n)` (R264, D19): the value of the last step, or, if there was none, `Continue` on a running VM and
`Halt` on one that is not. -/
def runFor (n : Nat) (s : State) : Host.Outcome (State × StepValue) Fault Refusal :=
  runForLoop n (if s.running then .continued else .halted) s

/-- `run()` called in state `s` returns value `v` and leaves state `t`: some number of steps ends in a VM that is not
running (R263). A program that never halts has no such `t` and `v`: `run()` "may never return" (I15; log 22). -/
def RunReturns (s t : State) (v : StepValue) : Prop :=
  ∃ n, runFor n s = .next (t, v) ∧ t.running = false

end Sys2Proof.Machine
end

