-- ==== Sys2Proof/Safety.lean ====
section
/-!
DEFINITION. What counts as a safe state and a safe step, and the vocabulary of the statements: what an instruction
writes and what it leaves. The sign rule and the writer lists are written from the spec's words again, not through the
meanings.
-/

namespace Sys2Proof.Machine

/-! ### Invariants -/

/-- The COND invariant: from the first `initialize` on, COND holds exactly one of NEG, ZRO, POS (10_state.md R36; the
gap before it is C4). -/
abbrev CondLegal (s : State) : Prop := s.status ≠ .uninitialized → IsFlagValue s.cond

/-- The invariant of the machine: memory in its canonical form and COND legal. -/
abbrev Inv (s : State) : Prop := s.mem.wf ∧ CondLegal s

/-- A step or an instruction is safe where it answers a next state; `P` says which. -/
def Answers (o : Host.Outcome State Fault Refusal) (P : State → Prop) : Prop := ∃ t, o = .next t ∧ P t

/-! ### Frames -/

/-- Every general register reads as before. -/
def SameRegs (s t : State) : Prop := ∀ r, t.reg r = s.reg r

/-- Every word of memory reads as before. -/
def SameMem (s t : State) : Prop := ∀ a, t.memRead a = s.memRead a

/-- The controller's state, the parameters and the console are as before. -/
def SameController (s t : State) : Prop :=
  t.status = s.status ∧ t.count = s.count ∧ t.config = s.config ∧ t.io = s.io ∧ t.ioDraws = s.ioDraws

/-- `t` is `s` with the status `st`, and nothing else changed. -/
def OnlyStatusBecomes (st : Status) (s t : State) : Prop :=
  t.status = st ∧ SameRegs s t ∧ t.pc = s.pc ∧ t.cond = s.cond ∧ SameMem s t ∧ t.count = s.count ∧
    t.config = s.config ∧ t.io = s.io ∧ t.ioDraws = s.ioDraws

/-- COND for a value read as signed: "ZRO if zero, NEG if negative, POS otherwise" (10_state.md R37), with the numbers
of R35, the spec's decision D3 (log 3). -/
def signCond (v : Word) : Word := if v.toInt = 0 then 0x0002#16 else if v.toInt < 0 then 0x0004#16 else 0x0001#16

/-- `t` is `s` with `v` in `dr` and COND from `v`, and nothing else changed. -/
def WritesValue (s : State) (dr : Reg) (v : Word) (t : State) : Prop :=
  (∀ r, t.reg r = if r = dr then v else s.reg r) ∧ t.cond = signCond v ∧ t.pc = s.pc ∧ SameMem s t ∧ SameController s t

/-- `t` is `s` with the word `v` stored at `a`, and nothing else changed. -/
def StoresWord (s : State) (a v : Word) (t : State) : Prop :=
  (∀ b, t.memRead b = if b = a then v else s.memRead b) ∧ SameRegs s t ∧ t.cond = s.cond ∧ t.pc = s.pc ∧
    SameController s t

/-- `t` is `s` with PC at `target`, and nothing else changed. -/
def JumpsTo (s : State) (target : Word) (t : State) : Prop :=
  t.pc = target ∧ SameRegs s t ∧ t.cond = s.cond ∧ SameMem s t ∧ SameController s t

/-- `t` is `s` with `s`'s PC in R7 and PC at `target`, and nothing else changed. -/
def CallsTo (s : State) (target : Word) (t : State) : Prop :=
  t.pc = target ∧ (∀ r, t.reg r = if r = .r7 then s.pc else s.reg r) ∧ t.cond = s.cond ∧ SameMem s t ∧ SameController s t

/-! ### Which instruction writes what -/

/-- The general register an instruction writes by itself (10_state.md R32). -/
def destReg : Instr → Option Reg
  | .addReg dr _ _ | .addImm dr _ _ | .andReg dr _ _ | .andImm dr _ _ | .not dr _ | .ld dr _ | .ldi dr _ | .ldr dr _ _
  | .lea dr _ => some dr
  | .jsr _ | .jsrr _ => some .r7
  | .br _ _ | .st _ _ | .sti _ _ | .str _ _ _ | .jmp _ | .trap _ | .halt | .getc | .out | .puts | .inChar | .putsp
  | .rti | .res => none

/-- The instructions that write COND (R43). -/
def writesCond : Instr → Bool
  | .addReg _ _ _ | .addImm _ _ _ | .andReg _ _ _ | .andImm _ _ _ | .not _ _ | .ld _ _ | .ldi _ _ | .ldr _ _ _
  | .lea _ _ => true
  | .jsr _ | .jsrr _ | .br _ _ | .st _ _ | .sti _ _ | .str _ _ _ | .jmp _ | .trap _ | .halt | .getc | .out | .puts
  | .inChar | .putsp | .rti | .res => false

/-- The address an instruction stores to and the register it stores, in the state it executes in (42_load_store.md R161,
R163, R165). -/
def storeTarget (s : State) : Instr → Option (Word × Reg)
  | .st sr off9 => some (addrPC9 s off9, sr)
  | .sti sr off9 => some (addrIndirect s off9, sr)
  | .str sr baseR off6 => some (addrBase6 s baseR off6, sr)
  | .br _ _ | .addReg _ _ _ | .addImm _ _ _ | .andReg _ _ _ | .andImm _ _ _ | .not _ _ | .ld _ _ | .ldi _ _
  | .ldr _ _ _ | .lea _ _ | .jmp _ | .jsr _ | .jsrr _ | .trap _ | .halt | .getc | .out | .puts | .inChar | .putsp
  | .rti | .res => none

/-- The instructions that replace the fetched PC (10_state.md R33). -/
def writesPc : Instr → Bool
  | .br _ _ | .jmp _ | .jsr _ | .jsrr _ => true
  | .addReg _ _ _ | .addImm _ _ _ | .andReg _ _ _ | .andImm _ _ _ | .not _ _ | .ld _ _ | .ldi _ _ | .ldr _ _ _
  | .lea _ _ | .st _ _ | .sti _ _ | .str _ _ _ | .trap _ | .halt | .getc | .out | .puts | .inChar | .putsp | .rti
  | .res => false

/-- The vectors of the console traps, 0x20 to 0x24 (44_system.md R202). -/
def ioVector (v : BitVec 8) : Bool := decide (0x20 ≤ v.toNat ∧ v.toNat ≤ 0x24)

/-- The console traps, with the vector of each (R203 to R207). -/
def ioTrapVector : Instr → Option (BitVec 8)
  | .getc => some 0x20#8
  | .out => some 0x21#8
  | .puts => some 0x22#8
  | .inChar => some 0x23#8
  | .putsp => some 0x24#8
  | .trap v => if ioVector v then some v else none
  | .br _ _ | .addReg _ _ _ | .addImm _ _ _ | .andReg _ _ _ | .andImm _ _ _ | .not _ _ | .ld _ _ | .ldi _ _
  | .ldr _ _ _ | .lea _ _ | .st _ _ | .sti _ _ | .str _ _ _ | .jmp _ | .jsr _ | .jsrr _ | .halt | .rti | .res => none

/-- The instruction cannot reach a console: it is no console trap, or there is no capability. -/
def NoConsole (i : Instr) (s : State) : Prop := ioTrapVector i = none ∨ s.io = .absent

/-- The error a word makes the executor return, if any: "exactly three classes of word" (30_encoding.md R103). -/
def wordError (w : Word) : Option ErrorKind :=
  if fieldOpcode w = 0x8#4 then some .rtiUnsupported
  else if fieldOpcode w = 0xD#4 then some .reservedOpcode
  else if fieldOpcode w = 0xF#4 ∧ ((fieldTrapvect8 w).toNat < 0x20 ∨ 0x25 < (fieldTrapvect8 w).toNat) then
    some (.unknownTrapVector (fieldTrapvect8 w))
  else none

/-- The words that halt: TRAP 0x25, whatever bits 11 to 8 are (44_system.md R201). -/
def wordHalts (w : Word) : Bool := fieldOpcode w == 0xF#4 && fieldTrapvect8 w == 0x25#8

end Sys2Proof.Machine
end

