-- ==== Sys2Proof/Certificates/Slice0/Obligations.lean ====
section
/-!
DEFINITION. The statements for the provers, listed in OBLIGATIONS.json. They range over every state of the model, also
over states no run reaches, and over both values of the parameters INIT_COND, JSRR_READS_BASE_FIRST and IO.
-/

open Sys2Proof Sys2Proof.Machine

/-! ### Encoding -/

/-- One word of each family, written out bit by bit from the patterns of R130 to R211, decodes to its instruction. The
opcode numbers but TRAP's are the spec's decision D1 (log 1). -/
def Obligations.WrittenWordsDecode : Prop :=
  decode 0b0000100111111101#16 = .br 0b100#3 (-3) ∧
  decode 0b0001000001000010#16 = .addReg .r0 .r1 .r2 ∧
  decode 0b0101100101111111#16 = .andImm .r4 .r5 (-1) ∧
  decode 0b1001001001111111#16 = .not .r1 .r1 ∧
  decode 0b0110011100100000#16 = .ldr .r3 .r4 (-32) ∧
  decode 0b1011011000000101#16 = .sti .r3 5 ∧
  decode 0b1110001000000001#16 = .lea .r1 1 ∧
  decode 0b0100110000000000#16 = .jsr (-1024) ∧
  decode 0b0100000011000000#16 = .jsrr .r3 ∧
  decode 0b1100000111000000#16 = .jmp .r7 ∧
  decode 0b1111000000100101#16 = .halt ∧
  decode 0b1111000011111111#16 = .trap 0xFF#8 ∧
  decode 0b1000000000000000#16 = .rti ∧
  decode 0b1101000000000000#16 = .res

/-- Decode and encode agree on every well-formed instruction, with every operand at every value (R96, R100, R104; the
opcode numbers are D1, log 1, the I/O vectors D2, log 2). -/
def Obligations.DecodeEncodeRoundTrip : Prop := ∀ i : Instr, i.wellFormed = true → decode (encode i) = i

/-- Every word decodes to the instruction of R100's row for its opcode, JSR and JSRR split by bit 11, ADD and AND by
bit 5, with the fields of R90; the TRAP rows are split by vector (R101, R104). The opcode numbers are
D1 (log 1), the I/O vectors D2 (log 2), and other bits are ignored by D6 (log 13). -/
def Obligations.EveryWordDecodesByItsOpcode : Prop :=
  ∀ w : Word,
    let dr := Reg.ofBits (w.extractLsb' 9 3)
    let sr1 := Reg.ofBits (w.extractLsb' 6 3)
    let sr2 := Reg.ofBits (w.extractLsb' 0 3)
    let off9 := w.extractLsb' 0 9
    let op := w.toNat / 4096
    (op = 0x0 → decode w = .br (w.extractLsb' 9 3) off9) ∧
    (op = 0x1 → w.getLsbD 5 = false → decode w = .addReg dr sr1 sr2) ∧
    (op = 0x1 → w.getLsbD 5 = true → decode w = .addImm dr sr1 (w.extractLsb' 0 5)) ∧
    (op = 0x2 → decode w = .ld dr off9) ∧
    (op = 0x3 → decode w = .st dr off9) ∧
    (op = 0x4 → w.getLsbD 11 = true → decode w = .jsr (w.extractLsb' 0 11)) ∧
    (op = 0x4 → w.getLsbD 11 = false → decode w = .jsrr sr1) ∧
    (op = 0x5 → w.getLsbD 5 = false → decode w = .andReg dr sr1 sr2) ∧
    (op = 0x5 → w.getLsbD 5 = true → decode w = .andImm dr sr1 (w.extractLsb' 0 5)) ∧
    (op = 0x6 → decode w = .ldr dr sr1 (w.extractLsb' 0 6)) ∧
    (op = 0x7 → decode w = .str dr sr1 (w.extractLsb' 0 6)) ∧
    (op = 0x8 → decode w = .rti) ∧
    (op = 0x9 → decode w = .not dr sr1) ∧
    (op = 0xA → decode w = .ldi dr off9) ∧
    (op = 0xB → decode w = .sti dr off9) ∧
    (op = 0xC → decode w = .jmp sr1) ∧
    (op = 0xD → decode w = .res) ∧
    (op = 0xE → decode w = .lea dr off9) ∧
    (op = 0xF → w.toNat % 256 = 0x25 → decode w = .halt) ∧
    (op = 0xF → w.toNat % 256 = 0x20 → decode w = .getc) ∧
    (op = 0xF → w.toNat % 256 = 0x21 → decode w = .out) ∧
    (op = 0xF → w.toNat % 256 = 0x22 → decode w = .puts) ∧
    (op = 0xF → w.toNat % 256 = 0x23 → decode w = .inChar) ∧
    (op = 0xF → w.toNat % 256 = 0x24 → decode w = .putsp) ∧
    (op = 0xF → (w.toNat % 256 < 0x20 ∨ 0x25 < w.toNat % 256) → decode w = .trap (w.extractLsb' 0 8))

/-- Every word decodes to a well-formed instruction whose row of opcode_table.json it matches under the row's mask. The
rows' numbers are the spec's decisions D1 (opcodes, log 1) and D2 (the I/O vectors, log 2), and that a word with
non-standard unused bits matches its row too is D6 (log 13). -/
def Obligations.DecodedWordMatchesItsTableRow : Prop :=
  ∀ w : Word, (decode w).wellFormed = true ∧ w &&& (decode w).rowMask = (decode w).rowMatch

/-- Bits an instruction's format does not use never change what a word decodes to (R102; the spec's decision D6, log 13). -/
def Obligations.UnusedBitsAreIgnored : Prop :=
  ∀ w w' : Word, w' &&& (decode w).usedBits = w &&& (decode w).usedBits → decode w' = decode w

/-- Encoding what a word decodes to gives the word back on every bit its format uses: no field is dropped or moved.
Which bits a format leaves unused is R102 with D6 (log 13); the opcode numbers are D1 (log 1). -/
def Obligations.EncodeOfDecodeKeepsUsedBits : Prop :=
  ∀ w : Word, encode (decode w) &&& (decode w).usedBits = w &&& (decode w).usedBits

/-- The sign-extension contract for every width 1 to 16: the field's own bits stay, the bits above copy its top bit, so
the signed value is the field's; it is the pseudocode of R92, and the identity for 16 bits. -/
def Obligations.SignExtensionContract : Prop :=
  (∀ (n : Nat) (f : BitVec n), 1 ≤ n → n ≤ 16 →
    (∀ k, k < n → (sext f).getLsbD k = f.getLsbD k) ∧
    (∀ k, n ≤ k → k < 16 → (sext f).getLsbD k = f.getLsbD (n - 1)) ∧
    (sext f).toInt = f.toInt ∧
    sext f = if f.getLsbD (n - 1) then f.setWidth 16 ||| (0xFFFF#16 <<< n) else f.setWidth 16) ∧
  (∀ f : BitVec 16, sext f = f)

/-! ### Registers, condition codes, memory -/

/-- `update_condition_code(v)` sets COND by the sign of `v` alone and changes nothing else (R37); afterwards
`is_flag_set` (R39) is true of exactly the flag of that sign. COND's numbers, here and wherever `signCond` stands below,
are the spec's decision D3 (R35; log 3). -/
def Obligations.ConditionCodeFollowsTheSign : Prop :=
  ∀ (s : State) (v : Word),
    (s.setcc v).cond = signCond v ∧
    (∀ f, (s.setcc v).isFlagSet f = true ↔ flagWord f = signCond v) ∧
    SameRegs s (s.setcc v) ∧ (s.setcc v).pc = s.pc ∧ SameMem s (s.setcc v) ∧ SameController s (s.setcc v)

/-- `increment_pc()` adds one modulo 65536 and changes nothing but PC; and address arithmetic wraps: every address form is
the exact sum of its base and its signed offset, reduced modulo 65536. -/
def Obligations.IncrementPcWraps : Prop :=
  ∀ s : State,
    (s.incrementPc.pc.toNat = (s.pc.toNat + 1) % 65536 ∧ JumpsTo s s.incrementPc.pc s.incrementPc) ∧
    (∀ off9, ((addrPC9 s off9).toNat : Int) = ((s.pc.toNat : Int) + off9.toInt) % 65536) ∧
    (∀ off11, ((addrPC11 s off11).toNat : Int) = ((s.pc.toNat : Int) + off11.toInt) % 65536) ∧
    (∀ baseR off6, ((addrBase6 s baseR off6).toNat : Int) = (((s.reg baseR).toNat : Int) + off6.toInt) % 65536)

/-- A read returns the value of the most recent write to its address, and a write changes no other address: for one
write, and for any sequence of writes. It holds for every memory list, canonical or not. -/
def Obligations.ReadReturnsMostRecentWrite : Prop :=
  (∀ (s : State) (a b v : Word), (s.memWrite a v).memRead b = if b = a then v else s.memRead b) ∧
  (∀ (s : State) (writes : List (Word × Word)) (a : Word),
    (writes.foldl (fun u c => u.memWrite c.1 c.2) s).memRead a =
      ((writes.reverse.find? fun c => c.1 == a).map Prod.snd).getD (s.memRead a))

/-- Two memories in canonical form that read alike are the same list: equal memories are equal data (the model's
choice, log 14). -/
def Obligations.CanonicalMemoriesThatReadAlikeAreEqual : Prop :=
  ∀ m m' : Memory, m.wf → m'.wf → (∀ a, m.read a = m'.read a) → m = m'

/-- The bounds-checked memory interface never fails on a 16-bit address and agrees with the total reads and writes; it
fails exactly on addresses outside 0 to 65535 (the dead check of D13, log 15). That it answers MemoryBounds with stage
`data`, for the read too, is the model's choice (log 25). -/
def Obligations.MemoryBoundsCheckIsDead : Prop :=
  (∀ (s : State) (a : Word), s.mem.readChecked a.toNat = .ok (s.memRead a)) ∧
  (∀ (s : State) (a v : Word), s.mem.writeChecked a.toNat v = .ok (s.memWrite a v).mem) ∧
  (∀ (m : Memory) (a : Nat), 65536 ≤ a → m.readChecked a = .error (.memoryBounds .data a)) ∧
  (∀ (m : Memory) (a : Nat) (v : Word), 65536 ≤ a → m.writeChecked a v = .error (.memoryBounds .data a))

/-- `load_program`: an overflowing program fails and writes nothing; otherwise word `k` of the program is at
`start + k` and every other address reads as before, and the canonical form is kept (check first: D11, log 18). -/
def Obligations.LoadProgramWritesExactlyTheProgram : Prop :=
  ∀ (m : Memory) (start : Word) (words : List Word),
    (65536 < start.toNat + words.length →
      m.loadProgram start words = .error (.loadOverflow start words.length)) ∧
    (start.toNat + words.length ≤ 65536 →
      ∃ m', m.loadProgram start words = .ok m' ∧
        (∀ k (h : k < words.length), m'.read (start.toNat + k) = words[k]) ∧
        (∀ a, a < start.toNat ∨ start.toNat + words.length ≤ a → m'.read a = m.read a) ∧
        (m.wf → m'.wf))

/-- The register file by identifier: 0 to 7 are R0 to R7, 8 is PC, 9 is COND (D5, log 19); a write is read back and
changes no other identifier, memory or controller state; every number from 10 up fails with RegisterBounds. -/
def Obligations.RegisterFileByIdentifier : Prop :=
  (∀ (s : State) (r : Reg), s.readRegister r.bits.toNat = .ok (s.reg r)) ∧
  (∀ s : State, s.readRegister 8 = .ok s.pc ∧ s.readRegister 9 = .ok s.cond) ∧
  (∀ (s : State) (id : Nat) (v : Word), id ≤ 9 →
    ∃ t, s.writeRegister id v = .ok t ∧ t.readRegister id = .ok v ∧
      (∀ other, other ≠ id → t.readRegister other = s.readRegister other) ∧ SameMem s t ∧ SameController s t) ∧
  (∀ (s : State) (id : Nat) (v : Word), 10 ≤ id →
    s.readRegister id = .error (.registerBounds id) ∧ s.writeRegister id v = .error (.registerBounds id))

/-- `fetch_instruction` returns the word at PC, then advances PC modulo 65536, and changes nothing else; at 0xFFFF it
leaves PC at 0x0000 (R66, R67). -/
def Obligations.FetchReadsThenAdvances : Prop :=
  ∀ s : State,
    s.fetchInstruction.1 = s.memRead s.pc ∧ JumpsTo s (s.pc + 1) s.fetchInstruction.2 ∧
    (s.pc = 0xFFFF#16 → s.fetchInstruction.2.pc = 0x0000#16)

/-! ### What each instruction does, in the state the executor sees (PC already advanced, R33) -/

/-- ADD, both modes: the exact sum reduced modulo 65536 goes to DR and its sign to COND; nothing else changes. -/
def Obligations.AddResults : Prop :=
  ∀ (dr sr1 : Reg) (s : State),
    (∀ sr2, Answers (exec (.addReg dr sr1 sr2) s)
      (WritesValue s dr (BitVec.ofNat 16 ((s.reg sr1).toNat + (s.reg sr2).toNat)))) ∧
    (∀ imm5, Answers (exec (.addImm dr sr1 imm5) s)
      (WritesValue s dr (BitVec.ofInt 16 ((s.reg sr1).toInt + imm5.toInt))))

/-- AND, both modes: bit by bit, the immediate's bits above 4 being its bit 4. -/
def Obligations.AndResults : Prop :=
  ∀ (dr sr1 : Reg) (s : State),
    (∀ sr2, Answers (exec (.andReg dr sr1 sr2) s) fun t =>
      WritesValue s dr (t.reg dr) t ∧
      ∀ k, (t.reg dr).getLsbD k = ((s.reg sr1).getLsbD k && (s.reg sr2).getLsbD k)) ∧
    (∀ imm5, Answers (exec (.andImm dr sr1 imm5) s) fun t =>
      WritesValue s dr (t.reg dr) t ∧
      ∀ k, (t.reg dr).getLsbD k = ((s.reg sr1).getLsbD k && imm5.getLsbD (min k 4)))

/-- NOT: 0xFFFF minus the source goes to DR, its sign to COND; nothing else changes. -/
def Obligations.NotResult : Prop :=
  ∀ (dr sr : Reg) (s : State),
    Answers (exec (.not dr sr) s) (WritesValue s dr (BitVec.ofNat 16 (0xFFFF - (s.reg sr).toNat)))

/-- LD, LDI, LDR: the word at the PC-relative, indirect or base+offset address goes to DR and its sign to COND; no
memory word, no base register and nothing else changes. -/
def Obligations.LoadResults : Prop :=
  ∀ (dr : Reg) (s : State),
    (∀ off9, Answers (exec (.ld dr off9) s) (WritesValue s dr (s.memRead (s.pc + sext off9)))) ∧
    (∀ off9, Answers (exec (.ldi dr off9) s) (WritesValue s dr (s.memRead (s.memRead (s.pc + sext off9))))) ∧
    (∀ baseR off6, Answers (exec (.ldr dr baseR off6) s) (WritesValue s dr (s.memRead (s.reg baseR + sext off6))))

/-- LEA: the PC-relative address itself goes to DR and its sign to COND; nothing else changes. -/
def Obligations.LeaResult : Prop :=
  ∀ (dr : Reg) (off9 : BitVec 9) (s : State),
    Answers (exec (.lea dr off9) s) (WritesValue s dr (BitVec.ofInt 16 ((s.pc.toNat : Int) + off9.toInt)))

/-- ST, STI, STR: the source register's word at the PC-relative, indirect or base+offset address, every other word and
everything else unchanged, COND too. -/
def Obligations.StoreResults : Prop :=
  ∀ (sr : Reg) (s : State),
    (∀ off9, Answers (exec (.st sr off9) s) (StoresWord s (s.pc + sext off9) (s.reg sr))) ∧
    (∀ off9, Answers (exec (.sti sr off9) s) (StoresWord s (s.memRead (s.pc + sext off9)) (s.reg sr))) ∧
    (∀ baseR off6, Answers (exec (.str sr baseR off6) s) (StoresWord s (s.reg baseR + sext off6) (s.reg sr)))

/-- BR: taken exactly when NZP and COND share a set bit; the target is PC plus the signed offset modulo 65536; nothing
but PC ever changes. -/
def Obligations.BranchResult : Prop :=
  ∀ (nzp : BitVec 3) (off9 : BitVec 9) (s : State),
    ((∃ k, k < 3 ∧ nzp.getLsbD k = true ∧ s.cond.getLsbD k = true) →
      Answers (exec (.br nzp off9) s) (JumpsTo s (BitVec.ofInt 16 ((s.pc.toNat : Int) + off9.toInt)))) ∧
    ((¬ ∃ k, k < 3 ∧ nzp.getLsbD k = true ∧ s.cond.getLsbD k = true) →
      Answers (exec (.br nzp off9) s) (JumpsTo s s.pc))

/-- JMP: PC becomes the base register, whatever it holds; nothing else changes. -/
def Obligations.JmpResult : Prop :=
  ∀ (baseR : Reg) (s : State), Answers (exec (.jmp baseR) s) (JumpsTo s (s.reg baseR))

/-- JSR and JSRR: R7 gets the advanced PC, then PC the target. JSRR's base is read after R7 is written unless
JSRR_READS_BASE_FIRST, which differs for R7 only (the spec's decision D7, log 5). -/
def Obligations.CallResults : Prop :=
  ∀ s : State,
    (∀ off11, Answers (exec (.jsr off11) s) (CallsTo s (BitVec.ofInt 16 ((s.pc.toNat : Int) + off11.toInt)))) ∧
    (∀ baseR, baseR ≠ .r7 ∨ s.config.jsrrReadsBaseFirst = true →
      Answers (exec (.jsrr baseR) s) (CallsTo s (s.reg baseR))) ∧
    (s.config.jsrrReadsBaseFirst = false → Answers (exec (.jsrr .r7) s) (CallsTo s s.pc))

/-- HALT changes nothing but the status, which becomes Halted. -/
def Obligations.HaltOnlyStops : Prop :=
  ∀ s : State, Answers (exec .halt s) (OnlyStatusBecomes .halted s)

/-- The console traps without a capability are no-ops that continue (R202 a). -/
def Obligations.ConsoleTrapsWithoutCapabilityAreNoOps : Prop :=
  ∀ s : State, s.io = .absent → ∀ i, ioTrapVector i ≠ none → exec i s = .next s

/-- The console traps with a capability: the free value `Config.ioTrapEffect`, one draw of it, decides the general
registers, whether COND changes and to which flag, and the capability's state; PC, memory, status, counter and
parameters stay. Where it fails, the step is the fault of log 8. That nothing else is free is the model's reading of
R202 and D8, D9 (logs 7 to 10). -/
def Obligations.ConsoleTrapsWithCapabilityFollowTheFreeValue : Prop :=
  ∀ (s : State) (st : Config.IoState), s.io = .present st → ∀ i v, ioTrapVector i = some v →
    match Config.ioTrapEffect v s.reg s.pc s.cond s.memRead st s.ioDraws (Config.charRead s.ioDraws) with
    | .completes gprs cond st' =>
      Answers (exec i s) fun t =>
        (∀ r, t.reg r = gprs r) ∧ t.cond = (match cond with | none => s.cond | some f => flagWord f) ∧
        t.pc = s.pc ∧ SameMem s t ∧ t.status = s.status ∧ t.count = s.count ∧ t.config = s.config ∧
        t.io = .present st' ∧ t.ioDraws = s.ioDraws + 1
    | .fails => exec i s = .fault (.ioCapabilityFailed v)

/-- TRAP with an unrecognised vector, RTI and RES take their error and write nothing else: only the status changes. The
range of recognised vectors rests on the spec's decision D2 (log 2), and the error as a next state is log 11. -/
def Obligations.ErroringInstructionsOnlyStop : Prop :=
  (∀ (v : BitVec 8) (s : State), v.toNat < 0x20 ∨ 0x25 < v.toNat →
    Answers (exec (.trap v) s) (OnlyStatusBecomes (.errored (.unknownTrapVector v)) s)) ∧
  (∀ s : State, Answers (exec .rti s) (OnlyStatusBecomes (.errored .rtiUnsupported) s)) ∧
  (∀ s : State, Answers (exec .res s) (OnlyStatusBecomes (.errored .reservedOpcode) s))

/-- The match of R200: TRAP with the vector of one of the six rows is that row's instruction. The vectors 0x20 to 0x24
are the spec's decision D2 (log 2). The six `trap` terms are ill formed, no word decodes to them, and that they have the
meaning of their rows is the model's choice (log 23). -/
def Obligations.TrapByVectorIsItsRow : Prop :=
  ∀ s : State,
    exec (.trap 0x25#8) s = exec .halt s ∧ exec (.trap 0x20#8) s = exec .getc s ∧
    exec (.trap 0x21#8) s = exec .out s ∧ exec (.trap 0x22#8) s = exec .puts s ∧
    exec (.trap 0x23#8) s = exec .inChar s ∧ exec (.trap 0x24#8) s = exec .putsp s

/-! ### Frames over the whole instruction set -/

/-- No instruction writes a general register but its destination, ADD, AND, NOT, LD, LDI, LDR and LEA their DR, JSR and
JSRR R7; a console trap with a capability is the one exception, and it writes what the free value says (log 9). That TRAP
leaves R7 alone is the spec's decision D8 (log 20). -/
def Obligations.OnlyDestinationRegistersChange : Prop :=
  ∀ (i : Instr) (s t : State), NoConsole i s → exec i s = .next t →
    ∀ r, destReg i ≠ some r → t.reg r = s.reg r

/-- Every instruction that writes COND sets it from the value it leaves in DR, and every other leaves it, but for a
console trap with a capability (log 9). COND's numbers are D3 (log 3). -/
def Obligations.OnlyValueProducersWriteCond : Prop :=
  ∀ (i : Instr) (s t : State), NoConsole i s → exec i s = .next t →
    (writesCond i = true → ∃ dr, destReg i = some dr ∧ t.cond = signCond (t.reg dr)) ∧
    (writesCond i = false → t.cond = s.cond)

/-- No instruction changes a word of memory but ST, STI and STR, each the one word at the address its operands give in
the state it executes in, which then holds the source register. That a console trap with a capability leaves memory alone
is the model's reading of an effect that R68 and R202 leave OPEN (D9; log 9). -/
def Obligations.OnlyStoresChangeMemory : Prop :=
  ∀ (i : Instr) (s t : State), exec i s = .next t →
    (∀ a sr, storeTarget s i = some (a, sr) →
      t.memRead a = s.reg sr ∧ ∀ b, b ≠ a → t.memRead b = s.memRead b) ∧
    (storeTarget s i = none → SameMem s t)

/-- No instruction but BR, JMP, JSR and JSRR changes the PC the fetch advanced. That no TRAP does is the spec's decision
D8 (log 20), and that a console trap with a capability does not is the model's reading of an effect R202 leaves OPEN
(log 9). -/
def Obligations.OnlyControlFlowChangesPc : Prop :=
  ∀ (i : Instr) (s t : State), exec i s = .next t → writesPc i = false → t.pc = s.pc

/-! ### The step -/

/-- A step of a running VM runs the instruction the word at PC decodes to, in the state with PC advanced by one, and
counts it: the counter goes up by one after the instruction. -/
def Obligations.StepRunsTheDecodedInstruction : Prop :=
  ∀ (s : State) (i : Instr), s.running = true → decode (s.memRead s.pc) = i → i.wellFormed = true →
    step s =
      match exec i { s with pc := s.pc + 1 } with
      | .next t => .next { t with count := t.count + 1 }
      | .fault f => .fault f
      | .refused r => .refused r

/-- A step of a VM that is not running changes nothing, the instruction count included, and returns Halt. -/
def Obligations.StepOnStoppedVmIsANoOp : Prop :=
  ∀ s : State, s.running = false → step s = .next s ∧ stepValue s s = .halted

/-- HALT, from any word 1111 ---- 00100101 at PC: the VM stops Halted, no register, COND or memory word changes, PC is
the HALT's address plus 1, the HALT is counted, the step returns Halt, and every further step is a no-op. That bits 11 to 8
are ignored is the spec's decision D6 (R102; log 13), that the HALT is counted D10 (log 16). -/
def Obligations.HaltStepStopsTheVm : Prop :=
  ∀ s : State, s.running = true → (s.memRead s.pc).toNat / 4096 = 15 → (s.memRead s.pc).toNat % 256 = 0x25 →
    Answers (step s) fun t =>
      t.running = false ∧ t.status = .halted ∧ SameRegs s t ∧ t.cond = s.cond ∧ SameMem s t ∧ t.pc = s.pc + 1 ∧
      t.count = s.count + 1 ∧ stepValue s t = .halted ∧ step t = .next t ∧ stepValue t t = .halted

/-- TRAP with any vector outside 0x20 to 0x25, from any word with opcode 15: the step returns UnknownTrapVector of that
vector, the VM is not running, and no register, COND or memory word is written. The range rests on the spec's decision D2
(log 2), and that bits 11 to 8 are ignored is D6 (R102; log 13). -/
def Obligations.UnknownTrapVectorStepErrors : Prop :=
  ∀ (s : State) (v : BitVec 8), s.running = true → (s.memRead s.pc).toNat / 4096 = 15 →
    v.toNat = (s.memRead s.pc).toNat % 256 → (v.toNat ≤ 0x1F ∨ 0x26 ≤ v.toNat) →
    Answers (step s) fun t =>
      stepValue s t = .error (.unknownTrapVector v) ∧ t.running = false ∧ SameRegs s t ∧ t.cond = s.cond ∧ SameMem s t

/-- Which words stop the VM: a step of a running VM errs exactly on the three classes of R103, with the kind of its
class, halts exactly on TRAP 0x25 (R220), and otherwise leaves it running; the step's value says which. The opcode
numbers are D1 (log 1), the range of recognised vectors rests on D2 (log 2), and unused bits are ignored by D6
(log 13). -/
def Obligations.StepOutcomeByWord : Prop :=
  ∀ s t : State, s.running = true → step s = .next t →
    (∀ k, t.status = .errored k ↔ wordError (s.memRead s.pc) = some k) ∧
    (t.status = .halted ↔ wordHalts (s.memRead s.pc) = true) ∧
    (t.status = .running ↔ wordError (s.memRead s.pc) = none ∧ wordHalts (s.memRead s.pc) = false) ∧
    (∀ k, stepValue s t = .error k ↔ t.status = .errored k) ∧
    (stepValue s t = .halted ↔ t.status = .halted) ∧
    (stepValue s t = .continued ↔ t.status = .running)

/-- Errors are precise: a step that ends in an error leaves registers, COND, memory, parameters and console as they
were; PC is the erroring instruction's address plus 1 and the step is counted (the spec's decisions D10, D12; logs 11
and 16). -/
def Obligations.ErrorStepsLeaveNoPartialEffect : Prop :=
  ∀ (s t : State) (k : ErrorKind), s.running = true → step s = .next t → t.status = .errored k →
    SameRegs s t ∧ t.cond = s.cond ∧ SameMem s t ∧ t.pc = s.pc + 1 ∧ t.count = s.count + 1 ∧
    t.config = s.config ∧ t.io = s.io ∧ t.ioDraws = s.ioDraws

/-- Every step answers a next state, but for a running VM whose console capability fails in a console trap; no step is
refused. In particular without a capability the machine never stops the model (R103, R104; log 8).
The console traps' vectors are D2 (log 2). -/
def Obligations.OnlyAFailingConsoleStopsTheModel : Prop :=
  (∀ s : State, s.io = .absent → ∃ t, step s = .next t) ∧
  (∀ s : State, (∃ t, step s = .next t) ∨
    ∃ st v, s.running = true ∧ s.io = .present st ∧ ioTrapVector (decode (s.memRead s.pc)) = some v ∧
      step s = .fault (.ioCapabilityFailed v))

/-- Every step keeps the invariant: memory stays in its canonical form, and COND, once the VM has been initialized, stays
exactly one of NEG, ZRO and POS, whatever the console does. That a console trap with a capability leaves memory alone and
writes COND only as a flag is the model's reading of an effect R202 leaves OPEN (D9; log 9). -/
def Obligations.EveryStepKeepsTheInvariant : Prop :=
  ∀ s t : State, Inv s → step s = .next t → Inv t

/-- The invariant holds after reset. -/
def Obligations.ResetMeetsTheInvariant : Prop := Inv State.reset

/-- From a successful `initialize` with INIT_COND = ZRO, COND is exactly one flag in every state a bounded run reaches,
and memory stays canonical (R36; the value ZRO is D4, log 4; the canonical form is log 14). That a
console trap with a capability keeps both is the model's reading of an effect R202 leaves OPEN (D9; log 9). -/
def Obligations.CondIsLegalFromInitializeOn : Prop :=
  ∀ (s s₀ : State) (start : Word) (words : List Word), s.mem.wf → s.config.initCond = .zro →
    s.initializeVm start words = .ok s₀ →
    ∀ n t v, runFor n s₀ = .next (t, v) → IsFlagValue t.cond ∧ t.mem.wf

/-- A step of a running VM adds exactly 1 to the instruction counter, whatever the outcome; any other step leaves it
(the unbounded counter is D10, log 16). -/
def Obligations.CounterCountsFetchingSteps : Prop :=
  ∀ s t : State, step s = .next t → t.count = if s.running then s.count + 1 else s.count

/-- Nothing reads the instruction counter: two states that differ only in it step alike and differ only in it after. -/
def Obligations.CounterIsNeverRead : Prop :=
  ∀ (s : State) (n : Nat),
    step (s.setCount n) =
      match step s with
      | .next t => .next (t.setCount (if s.running then n + 1 else n))
      | .fault f => .fault f
      | .refused r => .refused r

/-- No step changes the parameters, and none installs a console (the model keeps them in State: logs 4 to 7). -/
def Obligations.StepsKeepTheParameters : Prop :=
  ∀ s t : State, step s = .next t →
    t.config = s.config ∧ (s.io = .absent → t.io = .absent ∧ t.ioDraws = s.ioDraws) ∧
    (∀ st, s.io = .present st → ∃ st', t.io = .present st')

/-- The word 0x0000, what freshly reset memory holds, is a no-op apart from the fetch's PC advance and the count
(R131 a). That the word 0x0000 is a BR rests on opcode 0, the spec's decision D1 (log 1); that the step is
counted is R260. -/
def Obligations.ZeroWordIsANoOp : Prop :=
  ∀ s : State, s.running = true → s.memRead s.pc = 0x0000#16 →
    Answers (step s) fun t =>
      t.pc = s.pc + 1 ∧ t.count = s.count + 1 ∧ t.status = .running ∧ SameRegs s t ∧ t.cond = s.cond ∧ SameMem s t ∧
      t.config = s.config ∧ t.io = s.io ∧ t.ioDraws = s.ioDraws

/-- A store to the word the next fetch reads is executed by the very next step: the instruction stored runs, whichever
of ST, STI and STR stored it (R79; the spec's decision D16, log 21). Which words are stores is D1 (log 1). -/
def Obligations.StoredWordIsFetchedByTheNextStep : Prop :=
  ∀ (s : State) (sr : Reg), s.running = true →
    storeTarget { s with pc := s.pc + 1 } (decode (s.memRead s.pc)) = some (s.pc + 1, sr) →
    Answers (step s) fun t =>
      t.running = true ∧ t.pc = s.pc + 1 ∧ t.memRead t.pc = s.reg sr ∧
      step t = countStep (exec (decode (s.reg sr)) { t with pc := t.pc + 1 })

/-! ### The controller -/

/-- The state after construction, and after `reset()` in any state: every register, PC, COND and memory word 0x0000,
not running, status Uninitialized, counter 0. -/
def Obligations.ResetZeroesEverything : Prop :=
  ∀ t : State, (t = State.reset ∨ ∃ s : State, t = s.resetVm) →
    (∀ r, t.reg r = 0x0000#16) ∧ t.pc = 0x0000#16 ∧ t.cond = 0x0000#16 ∧ (∀ a, t.memRead a = 0x0000#16) ∧
    t.running = false ∧ t.status = .uninitialized ∧ t.count = 0

/-- `initialize` with a program that fits succeeds in every status: PC is the start, the program's words are in place and
every other word stays, COND is INIT_COND, the counter 0, the VM running, and the general registers stay (the spec's
decisions D4, D20, D21; logs 4 and 18). -/
def Obligations.InitializeStartsTheProgram : Prop :=
  ∀ (s : State) (start : Word) (words : List Word), start.toNat + words.length ≤ 65536 →
    ∃ t, s.initializeVm start words = .ok t ∧ t.pc = start ∧
      (∀ k (h : k < words.length), t.memRead (start + BitVec.ofNat 16 k) = words[k]) ∧
      (∀ a : Word, a.toNat < start.toNat ∨ start.toNat + words.length ≤ a.toNat → t.memRead a = s.memRead a) ∧
      (s.config.initCond = .zro → t.cond = 0x0002#16) ∧ (s.config.initCond = .zero → t.cond = 0x0000#16) ∧
      t.count = 0 ∧ t.running = true ∧ t.status = .running ∧ SameRegs s t ∧ t.config = s.config ∧ t.io = s.io

/-- `initialize` fails exactly when the program would place a word beyond 0xFFFF, with LoadOverflow and no new state:
nothing changes (the spec's decision D11, log 18). -/
def Obligations.InitializeRejectsOverflow : Prop :=
  ∀ (s : State) (start : Word) (words : List Word),
    (65536 < start.toNat + words.length →
      s.initializeVm start words = .error (.loadOverflow start words.length)) ∧
    ((∃ k, s.initializeVm start words = .error k) → 65536 < start.toNat + words.length)

/-- `halt()`: a running VM becomes Halted and nothing else of it changes; any other VM is left as it is, and the next
step is a no-op (the spec's decision D23, log 19). -/
def Obligations.ExternalHaltOnlyStops : Prop :=
  ∀ s : State,
    (s.running = true → OnlyStatusBecomes .halted s s.haltVm) ∧ (s.running = false → s.haltVm = s) ∧
    step s.haltVm = .next s.haltVm

/-- `set_register`: any value to R0 to R7 and PC, a flag value to COND; everything else is refused with
InvalidRegisterWrite. Where it succeeds, the value is read back and nothing else changes (the spec's decision D18,
log 19). -/
def Obligations.SetRegisterKeepsCondLegal : Prop :=
  ∀ (s : State) (id : Nat) (v : Word),
    ((id ≤ 8 ∨ id = 9 ∧ (v = 0x0001#16 ∨ v = 0x0002#16 ∨ v = 0x0004#16)) →
      ∃ t, s.setRegister id v = .ok t ∧ t.readRegister id = .ok v ∧
        (∀ other, other ≠ id → t.readRegister other = s.readRegister other) ∧ SameMem s t ∧ SameController s t) ∧
    ((10 ≤ id ∨ id = 9 ∧ v ≠ 0x0001#16 ∧ v ≠ 0x0002#16 ∧ v ≠ 0x0004#16) →
      s.setRegister id v = .error (.invalidRegisterWrite id v))

/-- The status transitions, in full: `initialize` leads to Running from every status; a step leaves every status but
Running, and from Running goes to Halted exactly where it returns Halt and to Errored exactly where it returns Error;
`halt()` takes Running to Halted; `reset()` leads to Uninitialized; a register write changes no status; and `running`
is true exactly in Running. That `initialize` is accepted in every status is the spec's decision D20 (log 18), what
`halt()` does D23 and what `set_register` does D18 (log 19). -/
def Obligations.StatusTransitionsAreExactlyTheseOnes : Prop :=
  (∀ (s t : State) (start : Word) (words : List Word), s.initializeVm start words = .ok t → t.status = .running) ∧
  (∀ s t : State, step s = .next t → s.status ≠ .running → t.status = s.status) ∧
  (∀ s t : State, step s = .next t → s.status = .running →
    (t.status = .running ∧ stepValue s t = .continued) ∨ (t.status = .halted ∧ stepValue s t = .halted) ∨
      ∃ k, t.status = .errored k ∧ stepValue s t = .error k) ∧
  (∀ s : State, s.status = .running → s.haltVm.status = .halted) ∧
  (∀ s : State, s.status ≠ .running → s.haltVm.status = s.status) ∧
  (∀ s : State, s.resetVm.status = .uninitialized) ∧
  (∀ (s t : State) (id : Nat) (v : Word), s.setRegister id v = .ok t → t.status = s.status) ∧
  (∀ s : State, s.running = true ↔ s.status = .running)

/-- `run_for(n)` makes at most `n` steps: the counter grows by at most `n`, and by exactly `n` with value Continue where
the VM still runs; `run_for(0)` executes nothing (return values: the spec's decision D19, log 19). -/
def Obligations.RunForIsBounded : Prop :=
  (∀ (n : Nat) (s t : State) (v : StepValue), runFor n s = .next (t, v) →
    s.count ≤ t.count ∧ t.count ≤ s.count + n ∧
    (t.running = true → s.running = true ∧ t.count = s.count + n ∧ v = .continued)) ∧
  (∀ s : State, runFor 0 s = .next (s, if s.running then .continued else .halted)) ∧
  (∀ (n : Nat) (s : State), s.running = false → runFor n s = .next (s, .halted))

/-- `run()` returns at most one result, in a VM that is not running: Error of the kind that stopped it where it ends
Errored, Halt where it ends Halted; on a VM that is not running it returns Halt at once (R263; return value: the spec's
decision D19, log 22). -/
def Obligations.RunReturnsOnceStopped : Prop :=
  (∀ (s t t' : State) (v v' : StepValue), RunReturns s t v → RunReturns s t' v' → t = t' ∧ v = v') ∧
  (∀ (s t : State) (v : StepValue), s.running = true → RunReturns s t v →
    (t.status = .halted ∧ v = .halted) ∨ ∃ k, t.status = .errored k ∧ v = .error k) ∧
  (∀ s : State, s.running = false → RunReturns s s .halted)
end

