-- ==== Sys2Proof/Laws/State.lean ====
section
/-!
SUPPORT. One lemma per field per update of State, and what each update leaves of the views `reg`, `memRead` and
`running`, so that no later proof unfolds a record update.
-/

namespace Sys2Proof.Machine

variable (s : State)

/-! ### setReg -/

@[simp] theorem State.setReg_regs (r : Reg) (v : Word) : (s.setReg r v).regs = s.regs.set r v := rfl
@[simp] theorem State.setReg_pc (r : Reg) (v : Word) : (s.setReg r v).pc = s.pc := rfl
@[simp] theorem State.setReg_cond (r : Reg) (v : Word) : (s.setReg r v).cond = s.cond := rfl
@[simp] theorem State.setReg_mem (r : Reg) (v : Word) : (s.setReg r v).mem = s.mem := rfl
@[simp] theorem State.setReg_status (r : Reg) (v : Word) : (s.setReg r v).status = s.status := rfl
@[simp] theorem State.setReg_count (r : Reg) (v : Word) : (s.setReg r v).count = s.count := rfl
@[simp] theorem State.setReg_config (r : Reg) (v : Word) : (s.setReg r v).config = s.config := rfl
@[simp] theorem State.setReg_io (r : Reg) (v : Word) : (s.setReg r v).io = s.io := rfl
@[simp] theorem State.setReg_ioDraws (r : Reg) (v : Word) : (s.setReg r v).ioDraws = s.ioDraws := rfl
@[simp] theorem State.setReg_memRead (r : Reg) (v : Word) (x : Word) : (s.setReg r v).memRead x = s.memRead x := rfl
@[simp] theorem State.setReg_running (r : Reg) (v : Word) : (s.setReg r v).running = s.running := rfl

/-! ### setPc -/

@[simp] theorem State.setPc_regs (v : Word) : (s.setPc v).regs = s.regs := rfl
@[simp] theorem State.setPc_pc (v : Word) : (s.setPc v).pc = v := rfl
@[simp] theorem State.setPc_cond (v : Word) : (s.setPc v).cond = s.cond := rfl
@[simp] theorem State.setPc_mem (v : Word) : (s.setPc v).mem = s.mem := rfl
@[simp] theorem State.setPc_status (v : Word) : (s.setPc v).status = s.status := rfl
@[simp] theorem State.setPc_count (v : Word) : (s.setPc v).count = s.count := rfl
@[simp] theorem State.setPc_config (v : Word) : (s.setPc v).config = s.config := rfl
@[simp] theorem State.setPc_io (v : Word) : (s.setPc v).io = s.io := rfl
@[simp] theorem State.setPc_ioDraws (v : Word) : (s.setPc v).ioDraws = s.ioDraws := rfl
@[simp] theorem State.setPc_reg (v : Word) (q : Reg) : (s.setPc v).reg q = s.reg q := rfl
@[simp] theorem State.setPc_memRead (v : Word) (x : Word) : (s.setPc v).memRead x = s.memRead x := rfl
@[simp] theorem State.setPc_running (v : Word) : (s.setPc v).running = s.running := rfl

/-! ### incrementPc -/

@[simp] theorem State.incrementPc_regs : (s.incrementPc).regs = s.regs := rfl
@[simp] theorem State.incrementPc_pc : (s.incrementPc).pc = s.pc + 1 := rfl
@[simp] theorem State.incrementPc_cond : (s.incrementPc).cond = s.cond := rfl
@[simp] theorem State.incrementPc_mem : (s.incrementPc).mem = s.mem := rfl
@[simp] theorem State.incrementPc_status : (s.incrementPc).status = s.status := rfl
@[simp] theorem State.incrementPc_count : (s.incrementPc).count = s.count := rfl
@[simp] theorem State.incrementPc_config : (s.incrementPc).config = s.config := rfl
@[simp] theorem State.incrementPc_io : (s.incrementPc).io = s.io := rfl
@[simp] theorem State.incrementPc_ioDraws : (s.incrementPc).ioDraws = s.ioDraws := rfl
@[simp] theorem State.incrementPc_reg (q : Reg) : (s.incrementPc).reg q = s.reg q := rfl
@[simp] theorem State.incrementPc_memRead (x : Word) : (s.incrementPc).memRead x = s.memRead x := rfl
@[simp] theorem State.incrementPc_running : (s.incrementPc).running = s.running := rfl

/-! ### setCond -/

@[simp] theorem State.setCond_regs (v : Word) : (s.setCond v).regs = s.regs := rfl
@[simp] theorem State.setCond_pc (v : Word) : (s.setCond v).pc = s.pc := rfl
@[simp] theorem State.setCond_cond (v : Word) : (s.setCond v).cond = v := rfl
@[simp] theorem State.setCond_mem (v : Word) : (s.setCond v).mem = s.mem := rfl
@[simp] theorem State.setCond_status (v : Word) : (s.setCond v).status = s.status := rfl
@[simp] theorem State.setCond_count (v : Word) : (s.setCond v).count = s.count := rfl
@[simp] theorem State.setCond_config (v : Word) : (s.setCond v).config = s.config := rfl
@[simp] theorem State.setCond_io (v : Word) : (s.setCond v).io = s.io := rfl
@[simp] theorem State.setCond_ioDraws (v : Word) : (s.setCond v).ioDraws = s.ioDraws := rfl
@[simp] theorem State.setCond_reg (v : Word) (q : Reg) : (s.setCond v).reg q = s.reg q := rfl
@[simp] theorem State.setCond_memRead (v : Word) (x : Word) : (s.setCond v).memRead x = s.memRead x := rfl
@[simp] theorem State.setCond_running (v : Word) : (s.setCond v).running = s.running := rfl

/-! ### setcc -/

@[simp] theorem State.setcc_regs (v : Word) : (s.setcc v).regs = s.regs := rfl
@[simp] theorem State.setcc_pc (v : Word) : (s.setcc v).pc = s.pc := rfl
@[simp] theorem State.setcc_cond (v : Word) : (s.setcc v).cond = flagWord (signFlag v) := rfl
@[simp] theorem State.setcc_mem (v : Word) : (s.setcc v).mem = s.mem := rfl
@[simp] theorem State.setcc_status (v : Word) : (s.setcc v).status = s.status := rfl
@[simp] theorem State.setcc_count (v : Word) : (s.setcc v).count = s.count := rfl
@[simp] theorem State.setcc_config (v : Word) : (s.setcc v).config = s.config := rfl
@[simp] theorem State.setcc_io (v : Word) : (s.setcc v).io = s.io := rfl
@[simp] theorem State.setcc_ioDraws (v : Word) : (s.setcc v).ioDraws = s.ioDraws := rfl
@[simp] theorem State.setcc_reg (v : Word) (q : Reg) : (s.setcc v).reg q = s.reg q := rfl
@[simp] theorem State.setcc_memRead (v : Word) (x : Word) : (s.setcc v).memRead x = s.memRead x := rfl
@[simp] theorem State.setcc_running (v : Word) : (s.setcc v).running = s.running := rfl

/-! ### setStatus -/

@[simp] theorem State.setStatus_regs (st : Status) : (s.setStatus st).regs = s.regs := rfl
@[simp] theorem State.setStatus_pc (st : Status) : (s.setStatus st).pc = s.pc := rfl
@[simp] theorem State.setStatus_cond (st : Status) : (s.setStatus st).cond = s.cond := rfl
@[simp] theorem State.setStatus_mem (st : Status) : (s.setStatus st).mem = s.mem := rfl
@[simp] theorem State.setStatus_status (st : Status) : (s.setStatus st).status = st := rfl
@[simp] theorem State.setStatus_count (st : Status) : (s.setStatus st).count = s.count := rfl
@[simp] theorem State.setStatus_config (st : Status) : (s.setStatus st).config = s.config := rfl
@[simp] theorem State.setStatus_io (st : Status) : (s.setStatus st).io = s.io := rfl
@[simp] theorem State.setStatus_ioDraws (st : Status) : (s.setStatus st).ioDraws = s.ioDraws := rfl
@[simp] theorem State.setStatus_reg (st : Status) (q : Reg) : (s.setStatus st).reg q = s.reg q := rfl
@[simp] theorem State.setStatus_memRead (st : Status) (x : Word) : (s.setStatus st).memRead x = s.memRead x := rfl

/-! ### setCount -/

@[simp] theorem State.setCount_regs (n : Nat) : (s.setCount n).regs = s.regs := rfl
@[simp] theorem State.setCount_pc (n : Nat) : (s.setCount n).pc = s.pc := rfl
@[simp] theorem State.setCount_cond (n : Nat) : (s.setCount n).cond = s.cond := rfl
@[simp] theorem State.setCount_mem (n : Nat) : (s.setCount n).mem = s.mem := rfl
@[simp] theorem State.setCount_status (n : Nat) : (s.setCount n).status = s.status := rfl
@[simp] theorem State.setCount_count (n : Nat) : (s.setCount n).count = n := rfl
@[simp] theorem State.setCount_config (n : Nat) : (s.setCount n).config = s.config := rfl
@[simp] theorem State.setCount_io (n : Nat) : (s.setCount n).io = s.io := rfl
@[simp] theorem State.setCount_ioDraws (n : Nat) : (s.setCount n).ioDraws = s.ioDraws := rfl
@[simp] theorem State.setCount_reg (n : Nat) (q : Reg) : (s.setCount n).reg q = s.reg q := rfl
@[simp] theorem State.setCount_memRead (n : Nat) (x : Word) : (s.setCount n).memRead x = s.memRead x := rfl
@[simp] theorem State.setCount_running (n : Nat) : (s.setCount n).running = s.running := rfl

/-! ### memWrite -/

@[simp] theorem State.memWrite_regs (a v : Word) : (s.memWrite a v).regs = s.regs := rfl
@[simp] theorem State.memWrite_pc (a v : Word) : (s.memWrite a v).pc = s.pc := rfl
@[simp] theorem State.memWrite_cond (a v : Word) : (s.memWrite a v).cond = s.cond := rfl
@[simp] theorem State.memWrite_mem (a v : Word) : (s.memWrite a v).mem = s.mem.write a.toNat v := rfl
@[simp] theorem State.memWrite_status (a v : Word) : (s.memWrite a v).status = s.status := rfl
@[simp] theorem State.memWrite_count (a v : Word) : (s.memWrite a v).count = s.count := rfl
@[simp] theorem State.memWrite_config (a v : Word) : (s.memWrite a v).config = s.config := rfl
@[simp] theorem State.memWrite_io (a v : Word) : (s.memWrite a v).io = s.io := rfl
@[simp] theorem State.memWrite_ioDraws (a v : Word) : (s.memWrite a v).ioDraws = s.ioDraws := rfl
@[simp] theorem State.memWrite_reg (a v : Word) (q : Reg) : (s.memWrite a v).reg q = s.reg q := rfl
@[simp] theorem State.memWrite_running (a v : Word) : (s.memWrite a v).running = s.running := rfl

/-! ### writeResult -/

@[simp] theorem State.writeResult_regs (dr : Reg) (v : Word) : (s.writeResult dr v).regs = s.regs.set dr v := rfl
@[simp] theorem State.writeResult_pc (dr : Reg) (v : Word) : (s.writeResult dr v).pc = s.pc := rfl
@[simp] theorem State.writeResult_cond (dr : Reg) (v : Word) : (s.writeResult dr v).cond = flagWord (signFlag v) := rfl
@[simp] theorem State.writeResult_mem (dr : Reg) (v : Word) : (s.writeResult dr v).mem = s.mem := rfl
@[simp] theorem State.writeResult_status (dr : Reg) (v : Word) : (s.writeResult dr v).status = s.status := rfl
@[simp] theorem State.writeResult_count (dr : Reg) (v : Word) : (s.writeResult dr v).count = s.count := rfl
@[simp] theorem State.writeResult_config (dr : Reg) (v : Word) : (s.writeResult dr v).config = s.config := rfl
@[simp] theorem State.writeResult_io (dr : Reg) (v : Word) : (s.writeResult dr v).io = s.io := rfl
@[simp] theorem State.writeResult_ioDraws (dr : Reg) (v : Word) : (s.writeResult dr v).ioDraws = s.ioDraws := rfl
@[simp] theorem State.writeResult_memRead (dr : Reg) (v : Word) (x : Word) : (s.writeResult dr v).memRead x = s.memRead x := rfl
@[simp] theorem State.writeResult_running (dr : Reg) (v : Word) : (s.writeResult dr v).running = s.running := rfl

/-! ### ioCompleted -/

@[simp] theorem State.ioCompleted_regs (g : Reg → Word) (c : Option Flag) (st : Config.IoState) : (s.ioCompleted g c st).regs = Gprs.ofFn g := rfl
@[simp] theorem State.ioCompleted_pc (g : Reg → Word) (c : Option Flag) (st : Config.IoState) : (s.ioCompleted g c st).pc = s.pc := rfl
@[simp] theorem State.ioCompleted_cond (g : Reg → Word) (c : Option Flag) (st : Config.IoState) : (s.ioCompleted g c st).cond = (c.map flagWord).getD s.cond := rfl
@[simp] theorem State.ioCompleted_mem (g : Reg → Word) (c : Option Flag) (st : Config.IoState) : (s.ioCompleted g c st).mem = s.mem := rfl
@[simp] theorem State.ioCompleted_status (g : Reg → Word) (c : Option Flag) (st : Config.IoState) : (s.ioCompleted g c st).status = s.status := rfl
@[simp] theorem State.ioCompleted_count (g : Reg → Word) (c : Option Flag) (st : Config.IoState) : (s.ioCompleted g c st).count = s.count := rfl
@[simp] theorem State.ioCompleted_config (g : Reg → Word) (c : Option Flag) (st : Config.IoState) : (s.ioCompleted g c st).config = s.config := rfl
@[simp] theorem State.ioCompleted_io (g : Reg → Word) (c : Option Flag) (st : Config.IoState) : (s.ioCompleted g c st).io = .present st := rfl
@[simp] theorem State.ioCompleted_ioDraws (g : Reg → Word) (c : Option Flag) (st : Config.IoState) : (s.ioCompleted g c st).ioDraws = s.ioDraws + 1 := rfl
@[simp] theorem State.ioCompleted_memRead (g : Reg → Word) (c : Option Flag) (st : Config.IoState) (x : Word) : (s.ioCompleted g c st).memRead x = s.memRead x := rfl
@[simp] theorem State.ioCompleted_running (g : Reg → Word) (c : Option Flag) (st : Config.IoState) : (s.ioCompleted g c st).running = s.running := rfl

/-! ### startProgram -/

@[simp] theorem State.startProgram_regs (a : Word) (ws : List Word) : (s.startProgram a ws).regs = s.regs := rfl
@[simp] theorem State.startProgram_pc (a : Word) (ws : List Word) : (s.startProgram a ws).pc = a := rfl
@[simp] theorem State.startProgram_cond (a : Word) (ws : List Word) : (s.startProgram a ws).cond = initCondWord s.config.initCond := rfl
@[simp] theorem State.startProgram_mem (a : Word) (ws : List Word) : (s.startProgram a ws).mem = s.mem.writeWords a.toNat ws := rfl
@[simp] theorem State.startProgram_status (a : Word) (ws : List Word) : (s.startProgram a ws).status = .running := rfl
@[simp] theorem State.startProgram_count (a : Word) (ws : List Word) : (s.startProgram a ws).count = 0 := rfl
@[simp] theorem State.startProgram_config (a : Word) (ws : List Word) : (s.startProgram a ws).config = s.config := rfl
@[simp] theorem State.startProgram_io (a : Word) (ws : List Word) : (s.startProgram a ws).io = s.io := rfl
@[simp] theorem State.startProgram_ioDraws (a : Word) (ws : List Word) : (s.startProgram a ws).ioDraws = s.ioDraws := rfl
@[simp] theorem State.startProgram_reg (a : Word) (ws : List Word) (q : Reg) : (s.startProgram a ws).reg q = s.reg q := rfl

/-! ### The running flag and the fetch -/

theorem State.running_iff : s.running = true ↔ s.status = .running := by simp [State.running]

@[simp] theorem State.setStatus_halted_running : (s.setStatus .halted).running = false := rfl

@[simp] theorem State.setStatus_errored_running (k : ErrorKind) : (s.setStatus (.errored k)).running = false := rfl

@[simp] theorem State.fetchInstruction_fst : s.fetchInstruction.1 = s.memRead s.pc := rfl

@[simp] theorem State.fetchInstruction_snd : s.fetchInstruction.2 = s.incrementPc := rfl

end Sys2Proof.Machine
end

