-- ==== Sys2Proof/Laws/Flags.lean ====
section
/-!
SUPPORT. The condition codes.
-/

namespace Sys2Proof.Machine

/-- Every flag's word is a flag value. -/
theorem flagWord_isFlagValue (f : Flag) : IsFlagValue (flagWord f) := by cases f <;> decide

/-- What a value-producing instruction leaves in COND is a flag value. -/
theorem State.setcc_isFlagValue (s : State) (v : Word) : IsFlagValue (s.setcc v).cond := flagWord_isFlagValue _

/-- The three cases of `update_condition_code`, as words. -/
theorem flagWord_signFlag (v : Word) :
    flagWord (signFlag v) = if v = 0x0000#16 then 0x0002#16 else if v.getLsbD 15 then 0x0004#16 else 0x0001#16 := by
  unfold signFlag
  split
  · rfl
  · split <;> rfl

/-- A flag value has exactly its own flag set. -/
theorem State.isFlagSet_of_cond (s : State) (f g : Flag) (h : s.cond = flagWord f) :
    s.isFlagSet g = decide (g = f) := by
  simp only [State.isFlagSet, h]
  cases f <;> cases g <;> decide

/-- The value INIT_COND stands for is a flag value where the parameter is ZRO. -/
theorem initCondWord_zro : IsFlagValue (initCondWord .zro) := by decide

end Sys2Proof.Machine
end

