-- ==== Sys2Proof/Laws/Memory.lean ====
section
/-!
SUPPORT. The memory: a read after a write (for every list, canonical or not), the canonical form kept by every
operation, and reads of a loaded program.
-/

namespace Sys2Proof.Machine

/-! ### Reads after writes -/

@[simp] theorem Memory.read_dropAddr (m : Memory) (a b : Nat) :
    (m.dropAddr a).read b = if b = a then Memory.unlisted else m.read b := by
  induction m with
  | nil => simp [Memory.dropAddr, Memory.read]
  | cons c m ih =>
    obtain ⟨k, u⟩ := c
    by_cases hk : k = a
    · by_cases hb : b = a
      · subst hk; subst hb
        simpa [Memory.dropAddr] using ih
      · simp [Memory.dropAddr, Memory.read, hk, ih, hb, Ne.symm hb]
    · by_cases hb : k = b
      · simp [Memory.dropAddr, Memory.read, hb, show b ≠ a from fun h => hk (hb.trans h)]
      · simp [Memory.dropAddr, Memory.read, hk, hb, ih]

theorem Memory.read_addEntry_other (m : Memory) {a b : Nat} (v : Word) (h : b ≠ a) : (m.addEntry a v).read b = m.read b := by
  induction m with
  | nil => simp [Memory.addEntry, Memory.read, Ne.symm h]
  | cons c m ih =>
    obtain ⟨k, u⟩ := c
    by_cases hk : a < k
    · simp [Memory.addEntry, Memory.read, hk, Ne.symm h]
    · simp [Memory.addEntry, Memory.read, hk, ih]

theorem Memory.read_addEntry_same (m : Memory) (a : Nat) (v : Word) (h : ∀ c ∈ m, c.1 ≠ a) :
    (m.addEntry a v).read a = v := by
  induction m with
  | nil => simp [Memory.addEntry, Memory.read]
  | cons c m ih =>
    obtain ⟨k, u⟩ := c
    have hk : k ≠ a := h (k, u) (by simp)
    by_cases ha : a < k
    · simp [Memory.addEntry, Memory.read, ha]
    · simp [Memory.addEntry, Memory.read, ha, hk, ih fun c hc => h c (by simp [hc])]

theorem Memory.mem_dropAddr {m : Memory} {a : Nat} {c : Nat × Word} (h : c ∈ m.dropAddr a) : c ∈ m ∧ c.1 ≠ a := by
  induction m with
  | nil => simp [Memory.dropAddr] at h
  | cons d m ih =>
    obtain ⟨k, u⟩ := d
    by_cases hk : k = a
    · have := ih (by simpa [Memory.dropAddr, hk] using h)
      exact ⟨by simp [this.1], this.2⟩
    · rcases (by simpa [Memory.dropAddr, hk] using h : c = (k, u) ∨ c ∈ Memory.dropAddr m a) with rfl | h
      · exact ⟨by simp, hk⟩
      · exact ⟨by simp [(ih h).1], (ih h).2⟩

/-- Read after write, at the address and at every other address. -/
@[simp] theorem Memory.read_write (m : Memory) (a b : Nat) (v : Word) :
    (m.write a v).read b = if b = a then v else m.read b := by
  unfold Memory.write
  split
  · rename_i hv
    simp [hv]
  · by_cases h : b = a
    · subst h
      simp [Memory.read_addEntry_same _ b v fun c hc => (Memory.mem_dropAddr hc).2]
    · simp [Memory.read_addEntry_other _ v h, h]

@[simp] theorem State.memRead_memWrite (s : State) (a b v : Word) :
    (s.memWrite a v).memRead b = if b = a then v else s.memRead b := by
  simp [State.memRead, State.memWrite, BitVec.toNat_inj]

/-! ### The canonical form -/

theorem Memory.wf_nil : Memory.wf [] := by simp [Memory.wf]

theorem Memory.wf_dropAddr {m : Memory} (h : m.wf) (a : Nat) : (m.dropAddr a).wf := by
  refine ⟨?_, fun c hc => h.2 c (Memory.mem_dropAddr hc).1⟩
  have hp := h.1
  clear h
  induction m with
  | nil => simp [Memory.dropAddr]
  | cons c m ih =>
    obtain ⟨k, u⟩ := c
    have ⟨h1, h2⟩ := List.pairwise_cons.1 hp
    by_cases hk : k = a
    · simpa [Memory.dropAddr, hk] using ih h2
    · simpa [Memory.dropAddr, hk] using ⟨fun x y hx => h1 (x, y) (Memory.mem_dropAddr hx).1, ih h2⟩

theorem Memory.mem_addEntry {m : Memory} {a : Nat} {v : Word} {c : Nat × Word} (h : c ∈ m.addEntry a v) :
    c = (a, v) ∨ c ∈ m := by
  induction m with
  | nil => simpa [Memory.addEntry] using h
  | cons d m ih =>
    obtain ⟨k, u⟩ := d
    by_cases hk : a < k
    · simpa [Memory.addEntry, hk] using h
    · rcases (by simpa [Memory.addEntry, hk] using h : c = (k, u) ∨ c ∈ Memory.addEntry m a v) with rfl | h
      · simp
      · rcases ih h with h | h <;> simp [h]

theorem Memory.wf_addEntry {m : Memory} (h : m.wf) {a : Nat} {v : Word} (ha : a < 65536) (hv : v ≠ Memory.unlisted)
    (hm : ∀ c ∈ m, c.1 ≠ a) : (m.addEntry a v).wf := by
  refine ⟨?_, fun c hc => ?_⟩
  · have hp := h.1
    clear h
    induction m with
    | nil => simp [Memory.addEntry]
    | cons c m ih =>
      obtain ⟨k, u⟩ := c
      have ⟨h1, h2⟩ := List.pairwise_cons.1 hp
      have hk : k ≠ a := hm (k, u) (by simp)
      by_cases hlt : a < k
      · simp only [Memory.addEntry, hlt, if_true]
        refine List.pairwise_cons.2 ⟨fun d hd => ?_, hp⟩
        rcases List.mem_cons.1 hd with rfl | hd
        · exact hlt
        · exact Nat.lt_trans hlt (h1 d hd)
      · simp only [Memory.addEntry, hlt, if_false]
        refine List.pairwise_cons.2 ⟨fun d hd => ?_, ih (fun c hc => hm c (by simp [hc])) h2⟩
        rcases Memory.mem_addEntry hd with rfl | hd
        · simp only; omega
        · exact h1 d hd
  · rcases Memory.mem_addEntry hc with rfl | hc
    · exact ⟨ha, hv⟩
    · exact h.2 c hc

/-- A write keeps the canonical form. -/
theorem Memory.wf_write {m : Memory} (h : m.wf) {a : Nat} (v : Word) (ha : a < 65536) : (m.write a v).wf := by
  unfold Memory.write
  split
  · exact Memory.wf_dropAddr h a
  · rename_i hv
    exact Memory.wf_addEntry (Memory.wf_dropAddr h a) ha hv fun c hc => (Memory.mem_dropAddr hc).2

theorem State.wf_memWrite {s : State} (h : s.mem.wf) (a v : Word) : (s.memWrite a v).mem.wf :=
  Memory.wf_write h v a.isLt

/-- Writing a program that fits keeps the canonical form. -/
theorem Memory.wf_writeWords {m : Memory} (h : m.wf) (a : Nat) (ws : List Word) (hl : a + ws.length ≤ 65536) :
    (m.writeWords a ws).wf := by
  induction ws generalizing m a with
  | nil => exact h
  | cons w ws ih =>
    simp only [List.length_cons] at hl
    exact ih (Memory.wf_write h w (by omega)) (a + 1) (by omega)

/-- The words of a program after it is written: its own word at each of its addresses, the old word elsewhere. -/
theorem Memory.read_writeWords (m : Memory) (a b : Nat) (ws : List Word) :
    (m.writeWords a ws).read b = if a ≤ b then (ws[b - a]?).getD (m.read b) else m.read b := by
  induction ws generalizing m a with
  | nil => simp [Memory.writeWords]
  | cons w ws ih =>
    rw [Memory.writeWords, ih, Memory.read_write]
    by_cases h1 : b = a
    · subst h1
      simp
    · by_cases h2 : a ≤ b
      · have h3 : a + 1 ≤ b := by omega
        obtain ⟨n, hn⟩ : ∃ n, b - a = n + 1 := ⟨b - a - 1, by omega⟩
        have h4 : b - (a + 1) = n := by omega
        simp [h1, h2, h3, hn, h4]
      · simp [h1, h2, show ¬ a + 1 ≤ b by omega]

/-! ### The bounds-checked interface -/

theorem Memory.readChecked_word (m : Memory) (a : Word) : m.readChecked a.toNat = .ok (m.read a.toNat) := by
  simp [Memory.readChecked, a.isLt]

theorem Memory.writeChecked_word (m : Memory) (a v : Word) : m.writeChecked a.toNat v = .ok (m.write a.toNat v) := by
  simp [Memory.writeChecked, a.isLt]

theorem Memory.loadProgram_ok {m : Memory} {a : Word} {ws : List Word} (h : a.toNat + ws.length ≤ 65536) :
    m.loadProgram a ws = .ok (m.writeWords a.toNat ws) := by
  simp [Memory.loadProgram, Nat.not_lt.2 h]

end Sys2Proof.Machine
end

