-- ==== Sys2Proof/Laws/Registers.lean ====
section
/-!
SUPPORT. The general registers: a read after a write, extensionality, and both through State.
-/

namespace Sys2Proof.Machine

@[simp] theorem Gprs.get_set (g : Gprs) (r q : Reg) (v : Word) : (g.set r v).get q = if q = r then v else g.get q := by
  cases r <;> cases q <;> rfl

@[simp] theorem Gprs.get_ofFn (f : Reg → Word) (q : Reg) : (Gprs.ofFn f).get q = f q := by cases q <;> rfl

@[simp] theorem Gprs.get_zero (q : Reg) : Gprs.zero.get q = 0x0000#16 := by cases q <;> rfl

theorem Gprs.ext_get {g h : Gprs} (e : ∀ q, g.get q = h.get q) : g = h := by
  cases g; cases h
  simpa [Gprs.get] using And.intro (e .r0) (And.intro (e .r1) (And.intro (e .r2) (And.intro (e .r3)
    (And.intro (e .r4) (And.intro (e .r5) (And.intro (e .r6) (e .r7)))))))

@[simp] theorem State.reg_setReg (s : State) (r q : Reg) (v : Word) :
    (s.setReg r v).reg q = if q = r then v else s.reg q := Gprs.get_set s.regs r q v

@[simp] theorem State.reg_writeResult (s : State) (r q : Reg) (v : Word) :
    (s.writeResult r v).reg q = if q = r then v else s.reg q := Gprs.get_set s.regs r q v

@[simp] theorem State.reg_ioCompleted (s : State) (g : Reg → Word) (c : Option Flag) (st : Config.IoState) (q : Reg) :
    (s.ioCompleted g c st).reg q = g q := Gprs.get_ofFn g q

end Sys2Proof.Machine
end

