-- ==== Sys2Proof/Laws/Exec.lean ====
section
/-!
SUPPORT. What the shared operations and `exec` can answer, said once: later proofs cite these and unfold no meaning.
-/

namespace Sys2Proof.Machine

/-! ### The shared operations -/

@[simp] theorem continueWith_eq_next (s t : State) : continueWith s = .next t ↔ s = t := by simp [continueWith]

@[simp] theorem haltWith_eq_next (s t : State) : haltWith s = .next t ↔ s.setStatus .halted = t := by simp [haltWith]

@[simp] theorem raiseError_eq_next (k : ErrorKind) (s t : State) :
    raiseError k s = .next t ↔ s.setStatus (.errored k) = t := by simp [raiseError]

/-- A console trap without a capability. -/
theorem ioTrap_absent {s : State} (h : s.io = .absent) (v : BitVec 8) : ioTrap v s = continueWith s := by
  simp [ioTrap, h]

/-- A console trap with a capability that completes. -/
theorem ioTrap_completes {s : State} {st : Config.IoState} (h : s.io = .present st) {v : BitVec 8}
    {g : Reg → Word} {c : Option Flag} {st' : Config.IoState} (hr : s.ioResponse v st = .completes g c st') :
    ioTrap v s = continueWith (s.ioCompleted g c st') := by
  simp [ioTrap, h, hr]

/-- A console trap with a capability that fails. -/
theorem ioTrap_fails {s : State} {st : Config.IoState} (h : s.io = .present st) {v : BitVec 8}
    (hr : s.ioResponse v st = .fails) : ioTrap v s = .fault (.ioCapabilityFailed v) := by
  simp [ioTrap, h, hr]

/-- Everything a console trap can answer. -/
theorem ioTrap_cases (v : BitVec 8) (s : State) :
    (s.io = .absent ∧ ioTrap v s = .next s) ∨
    (∃ st, s.io = .present st ∧
      ((∃ g c st', ioTrap v s = .next (s.ioCompleted g c st')) ∨ ioTrap v s = .fault (.ioCapabilityFailed v))) := by
  cases hio : s.io with
  | absent => exact .inl ⟨rfl, ioTrap_absent hio v⟩
  | present st =>
    refine .inr ⟨st, rfl, ?_⟩
    cases hr : s.ioResponse v st with
    | completes g c st' => exact .inl ⟨g, c, st', ioTrap_completes hio hr⟩
    | fails => exact .inr (ioTrap_fails hio hr)

/-- COND after the capability completed is a flag value if it was one before. -/
theorem State.ioCompleted_isFlagValue {s : State} (h : IsFlagValue s.cond) (g : Reg → Word) (c : Option Flag)
    (st : Config.IoState) : IsFlagValue (s.ioCompleted g c st).cond := by
  cases c with
  | none => simpa using h
  | some f => simpa using flagWord_isFlagValue f

/-! ### Everything an instruction can answer -/

/-- The effects an instruction can have on the state it executes in. -/
inductive Effect (s : State) : State → Prop where
  | same : Effect s s
  | jump (target : Word) : Effect s (s.setPc target)
  | call (target : Word) : Effect s ((s.setReg .r7 s.pc).setPc target)
  | result (dr : Reg) (v : Word) : Effect s (s.writeResult dr v)
  | store (a v : Word) : Effect s (s.memWrite a v)
  | stop (st : Status) (h : st = .halted ∨ ∃ k, st = .errored k) : Effect s (s.setStatus st)
  | console (st : Config.IoState) (hio : s.io = .present st) (g : Reg → Word) (c : Option Flag) (st' : Config.IoState) :
      Effect s (s.ioCompleted g c st')

theorem Effect.of_ioTrap {v : BitVec 8} {s t : State} (h : ioTrap v s = .next t) : Effect s t := by
  rcases ioTrap_cases v s with ⟨_, h'⟩ | ⟨st, hio, ⟨g, c, st', h'⟩ | h'⟩
  · obtain rfl : s = t := by simpa [h'] using h
    exact .same
  · obtain rfl : s.ioCompleted g c st' = t := by simpa [h'] using h
    exact .console st hio g c st'
  · simp [h'] at h

/-- What `exec` can do to the state, whatever the instruction. -/
theorem exec_effect {i : Instr} {s t : State} (h : exec i s = .next t) : Effect s t := by
  cases i with
  | br nzp off9 =>
    simp only [exec, execBr, continueWith_eq_next] at h
    subst h
    split
    · exact .jump _
    · exact .same
  | addReg dr sr1 sr2 => simp only [exec, execAddReg, continueWith_eq_next] at h; subst h; exact .result _ _
  | addImm dr sr1 imm5 => simp only [exec, execAddImm, continueWith_eq_next] at h; subst h; exact .result _ _
  | andReg dr sr1 sr2 => simp only [exec, execAndReg, continueWith_eq_next] at h; subst h; exact .result _ _
  | andImm dr sr1 imm5 => simp only [exec, execAndImm, continueWith_eq_next] at h; subst h; exact .result _ _
  | not dr sr => simp only [exec, execNot, continueWith_eq_next] at h; subst h; exact .result _ _
  | ld dr off9 => simp only [exec, execLd, continueWith_eq_next] at h; subst h; exact .result _ _
  | ldi dr off9 => simp only [exec, execLdi, continueWith_eq_next] at h; subst h; exact .result _ _
  | ldr dr baseR off6 => simp only [exec, execLdr, continueWith_eq_next] at h; subst h; exact .result _ _
  | lea dr off9 => simp only [exec, execLea, continueWith_eq_next] at h; subst h; exact .result _ _
  | st sr off9 => simp only [exec, execSt, continueWith_eq_next] at h; subst h; exact .store _ _
  | sti sr off9 => simp only [exec, execSti, continueWith_eq_next] at h; subst h; exact .store _ _
  | str sr baseR off6 => simp only [exec, execStr, continueWith_eq_next] at h; subst h; exact .store _ _
  | jmp baseR => simp only [exec, execJmp, continueWith_eq_next] at h; subst h; exact .jump _
  | jsr off11 => simp only [exec, execJsr, continueWith_eq_next] at h; subst h; exact .call _
  | jsrr baseR => simp only [exec, execJsrr, continueWith_eq_next] at h; subst h; exact .call _
  | trap v =>
    simp only [exec, execTrap] at h
    split at h
    · simp only [haltWith_eq_next] at h; subst h; exact .stop _ (.inl rfl)
    · split at h
      · exact .of_ioTrap h
      · simp only [raiseError_eq_next] at h; subst h; exact .stop _ (.inr ⟨_, rfl⟩)
  | halt => simp only [exec, execHalt, haltWith_eq_next] at h; subst h; exact .stop _ (.inl rfl)
  | getc => exact .of_ioTrap h
  | out => exact .of_ioTrap h
  | puts => exact .of_ioTrap h
  | inChar => exact .of_ioTrap h
  | putsp => exact .of_ioTrap h
  | rti => simp only [exec, execRti, raiseError_eq_next] at h; subst h; exact .stop _ (.inr ⟨_, rfl⟩)
  | res => simp only [exec, execRes, raiseError_eq_next] at h; subst h; exact .stop _ (.inr ⟨_, rfl⟩)

end Sys2Proof.Machine
end

