-- ==== Sys2Proof/Laws/Fields.lean ====
section
/-!
SUPPORT. Register numbers, the bits of the encoder's layouts, and the fields of words put together by them.
-/

namespace Sys2Proof

/-! ### Register numbers -/

@[simp] theorem Reg.ofBits_bits (r : Reg) : Reg.ofBits r.bits = r := by cases r <;> rfl

@[simp] theorem Reg.bits_ofBits (b : BitVec 3) : (Reg.ofBits b).bits = b := by revert b; decide

/-! ### Bits of the layouts -/

/-- A bit of two bit vectors put together, at a width known by an equation. -/
theorem getLsbD_cast_append {n m k : Nat} (h : n + m = k) (x : BitVec n) (y : BitVec m) (i : Nat) :
    (BitVec.cast h (x ++ y)).getLsbD i = if i < m then y.getLsbD i else x.getLsbD (i - m) := by
  simp [BitVec.getLsbD_append]

theorem getLsbD_wordDSO (op : BitVec 4) (d s : BitVec 3) (o : BitVec 6) (i : Nat) :
    (wordDSO op d s o).getLsbD i =
      if i < 6 then o.getLsbD i else if i < 9 then s.getLsbD (i - 6) else if i < 12 then d.getLsbD (i - 9)
      else op.getLsbD (i - 12) := by
  have h1 := getLsbD_cast_append (k := 16) rfl op (d ++ (s ++ o)) i
  have h2 := getLsbD_cast_append (k := 12) rfl d (s ++ o) i
  have h3 := getLsbD_cast_append (k := 9) rfl s o i
  refine h1.trans ?_
  rw [show (d ++ (s ++ o)).getLsbD i = _ from h2, show (s ++ o).getLsbD i = _ from h3]
  grind

theorem getLsbD_wordDO (op : BitVec 4) (d : BitVec 3) (o : BitVec 9) (i : Nat) :
    (wordDO op d o).getLsbD i =
      if i < 9 then o.getLsbD i else if i < 12 then d.getLsbD (i - 9) else op.getLsbD (i - 12) := by
  have h1 := getLsbD_cast_append (k := 16) rfl op (d ++ o) i
  have h2 := getLsbD_cast_append (k := 12) rfl d o i
  refine h1.trans ?_
  rw [show (d ++ o).getLsbD i = _ from h2]
  grind

theorem getLsbD_wordFO (op : BitVec 4) (f : BitVec 1) (o : BitVec 11) (i : Nat) :
    (wordFO op f o).getLsbD i =
      if i < 11 then o.getLsbD i else if i < 12 then f.getLsbD (i - 11) else op.getLsbD (i - 12) := by
  have h1 := getLsbD_cast_append (k := 16) rfl op (f ++ o) i
  have h2 := getLsbD_cast_append (k := 12) rfl f o i
  refine h1.trans ?_
  rw [show (f ++ o).getLsbD i = _ from h2]
  grind

theorem getLsbD_wordV (op u : BitVec 4) (v : BitVec 8) (i : Nat) :
    (wordV op u v).getLsbD i =
      if i < 8 then v.getLsbD i else if i < 12 then u.getLsbD (i - 8) else op.getLsbD (i - 12) := by
  have h1 := getLsbD_cast_append (k := 16) rfl op (u ++ v) i
  have h2 := getLsbD_cast_append (k := 12) rfl u v i
  refine h1.trans ?_
  rw [show (u ++ v).getLsbD i = _ from h2]
  grind

/-- The six low bits of a register-mode word. -/
theorem getLsbD_regOperand (u t : BitVec 3) (i : Nat) :
    BitVec.getLsbD (w := 6) (u ++ t) i = if i < 3 then t.getLsbD i else u.getLsbD (i - 3) :=
  getLsbD_cast_append (k := 6) rfl u t i

/-- The six low bits of an immediate-mode word. -/
theorem getLsbD_immOperand (f : BitVec 1) (m : BitVec 5) (i : Nat) :
    BitVec.getLsbD (w := 6) (f ++ m) i = if i < 5 then m.getLsbD i else f.getLsbD (i - 5) :=
  getLsbD_cast_append (k := 6) rfl f m i

/-! ### Fields of the layouts -/

@[simp] theorem fieldDR_wordDSO (op : BitVec 4) (d s : BitVec 3) (o : BitVec 6) : fieldDR (wordDSO op d s o) = d := by
  apply BitVec.eq_of_getLsbD_eq
  intro i hi
  rw [fieldDR, BitVec.getLsbD_extractLsb', getLsbD_wordDSO]
  simp [hi, show ¬ 9 + i < 6 by omega, show ¬ 9 + i < 9 by omega, show 9 + i < 12 by omega]

@[simp] theorem fieldSR1_wordDSO (op : BitVec 4) (d s : BitVec 3) (o : BitVec 6) : fieldSR1 (wordDSO op d s o) = s := by
  apply BitVec.eq_of_getLsbD_eq
  intro i hi
  rw [fieldSR1, BitVec.getLsbD_extractLsb', getLsbD_wordDSO]
  simp [hi, show ¬ 6 + i < 6 by omega, show 6 + i < 9 by omega]

@[simp] theorem fieldOffset6_wordDSO (op : BitVec 4) (d s : BitVec 3) (o : BitVec 6) :
    fieldOffset6 (wordDSO op d s o) = o := by
  apply BitVec.eq_of_getLsbD_eq
  intro i hi
  rw [fieldOffset6, BitVec.getLsbD_extractLsb', getLsbD_wordDSO]
  simp [hi]

@[simp] theorem fieldSR2_wordDSO (op : BitVec 4) (d s : BitVec 3) (u t : BitVec 3) :
    fieldSR2 (wordDSO op d s (u ++ t)) = t := by
  apply BitVec.eq_of_getLsbD_eq
  intro i hi
  rw [fieldSR2, BitVec.getLsbD_extractLsb', getLsbD_wordDSO, Nat.zero_add, getLsbD_regOperand]
  simp [hi, show i < 6 by omega]

@[simp] theorem fieldImm5_wordDSO (op : BitVec 4) (d s : BitVec 3) (f : BitVec 1) (m : BitVec 5) :
    fieldImm5 (wordDSO op d s (f ++ m)) = m := by
  apply BitVec.eq_of_getLsbD_eq
  intro i hi
  rw [fieldImm5, BitVec.getLsbD_extractLsb', getLsbD_wordDSO, Nat.zero_add, getLsbD_immOperand]
  simp [hi, show i < 6 by omega]

@[simp] theorem fieldDR_wordDO (op : BitVec 4) (d : BitVec 3) (o : BitVec 9) : fieldDR (wordDO op d o) = d := by
  apply BitVec.eq_of_getLsbD_eq
  intro i hi
  rw [fieldDR, BitVec.getLsbD_extractLsb', getLsbD_wordDO]
  simp [hi, show 9 + i < 12 by omega]

@[simp] theorem fieldNzp_wordDO (op : BitVec 4) (d : BitVec 3) (o : BitVec 9) : fieldNzp (wordDO op d o) = d :=
  fieldDR_wordDO op d o

@[simp] theorem fieldPCoffset9_wordDO (op : BitVec 4) (d : BitVec 3) (o : BitVec 9) :
    fieldPCoffset9 (wordDO op d o) = o := by
  apply BitVec.eq_of_getLsbD_eq
  intro i hi
  rw [fieldPCoffset9, BitVec.getLsbD_extractLsb', getLsbD_wordDO]
  simp [hi]

@[simp] theorem fieldPCoffset11_wordFO (op : BitVec 4) (f : BitVec 1) (o : BitVec 11) :
    fieldPCoffset11 (wordFO op f o) = o := by
  apply BitVec.eq_of_getLsbD_eq
  intro i hi
  rw [fieldPCoffset11, BitVec.getLsbD_extractLsb', getLsbD_wordFO]
  simp [hi]

@[simp] theorem fieldTrapvect8_wordV (op u : BitVec 4) (v : BitVec 8) : fieldTrapvect8 (wordV op u v) = v := by
  apply BitVec.eq_of_getLsbD_eq
  intro i hi
  rw [fieldTrapvect8, BitVec.getLsbD_extractLsb', getLsbD_wordV]
  simp [hi]

/-- The opcode as a number is the word's top digit. -/
theorem toNat_fieldOpcode (w : Word) : (fieldOpcode w).toNat = w.toNat / 4096 := by
  have := w.isLt
  simp only [fieldOpcode, BitVec.extractLsb'_toNat, Nat.shiftRight_eq_div_pow]
  omega

/-- The trap vector as a number is the word's low byte (R94). -/
theorem toNat_fieldTrapvect8 (w : Word) : (fieldTrapvect8 w).toNat = w.toNat % 256 := by
  simp [fieldTrapvect8, BitVec.extractLsb'_toNat]

/-- Bits 15 to 12 are the opcode's bits. -/
theorem getLsbD_fieldOpcode (w : Word) (i : Nat) (hi : i < 4) : (fieldOpcode w).getLsbD i = w.getLsbD (12 + i) := by
  simp [fieldOpcode, hi]

@[simp] theorem fieldOpcode_wordDSO (op : BitVec 4) (d s : BitVec 3) (o : BitVec 6) :
    fieldOpcode (wordDSO op d s o) = op := by
  apply BitVec.eq_of_getLsbD_eq
  intro i hi
  rw [getLsbD_fieldOpcode _ i hi, getLsbD_wordDSO]
  simp [show ¬ 12 + i < 6 by omega, show ¬ 12 + i < 9 by omega]

@[simp] theorem fieldOpcode_wordDO (op : BitVec 4) (d : BitVec 3) (o : BitVec 9) : fieldOpcode (wordDO op d o) = op := by
  apply BitVec.eq_of_getLsbD_eq
  intro i hi
  rw [getLsbD_fieldOpcode _ i hi, getLsbD_wordDO]
  simp [show ¬ 12 + i < 9 by omega]

@[simp] theorem fieldOpcode_wordFO (op : BitVec 4) (f : BitVec 1) (o : BitVec 11) :
    fieldOpcode (wordFO op f o) = op := by
  apply BitVec.eq_of_getLsbD_eq
  intro i hi
  rw [getLsbD_fieldOpcode _ i hi, getLsbD_wordFO]
  simp [show ¬ 12 + i < 11 by omega]

@[simp] theorem fieldOpcode_wordV (op u : BitVec 4) (v : BitVec 8) : fieldOpcode (wordV op u v) = op := by
  apply BitVec.eq_of_getLsbD_eq
  intro i hi
  rw [getLsbD_fieldOpcode _ i hi, getLsbD_wordV]
  simp [show ¬ 12 + i < 8 by omega]

@[simp] theorem fieldImmFlag_regOperand (op : BitVec 4) (d s t : BitVec 3) :
    fieldImmFlag (wordDSO op d s (0b000#3 ++ t)) = false := by
  rw [fieldImmFlag, getLsbD_wordDSO, getLsbD_regOperand]
  simp

@[simp] theorem fieldImmFlag_immOperand (op : BitVec 4) (d s : BitVec 3) (m : BitVec 5) :
    fieldImmFlag (wordDSO op d s (0b1#1 ++ m)) = true := by
  rw [fieldImmFlag, getLsbD_wordDSO, getLsbD_immOperand]
  simp

@[simp] theorem fieldJsrFlag_wordFO (op : BitVec 4) (o : BitVec 11) : fieldJsrFlag (wordFO op 0b1#1 o) = true := by
  rw [fieldJsrFlag, getLsbD_wordFO]
  simp

@[simp] theorem fieldJsrFlag_wordDSO (op : BitVec 4) (s : BitVec 3) (o : BitVec 6) :
    fieldJsrFlag (wordDSO op 0b000#3 s o) = false := by
  rw [fieldJsrFlag, getLsbD_wordDSO]
  simp

/-- The decoder on a word whose opcode is known. -/
theorem decode_of_opcode {w : Word} {op : BitVec 4} (h : fieldOpcode w = op) :
    decode w = decodeByOpcode (op.getLsbD 3) (op.getLsbD 2) (op.getLsbD 1) (op.getLsbD 0) w := by
  rw [decode, h]

end Sys2Proof
end

