-- ==== Sys2Proof/Laws/Operands.lean ====
section
/-!
SUPPORT. Sign extension bit by bit and as an integer, the operand and address forms, and the test of BR.
-/

namespace Sys2Proof.Machine

/-- The bits of a sign-extended field. -/
theorem getLsbD_sext {n : Nat} (f : BitVec n) {k : Nat} (hk : k < 16) :
    (sext f).getLsbD k = if k < n then f.getLsbD k else f.getLsbD (n - 1) := by
  rw [sext, BitVec.getLsbD_signExtend, BitVec.msb_eq_getLsbD_last]
  simp [hk]

/-- A sign-extended field has the field's signed value. -/
theorem toInt_sext {n : Nat} (f : BitVec n) (h : n ≤ 16) : (sext f).toInt = f.toInt := BitVec.toInt_signExtend_of_le h

/-- A base plus a sign-extended offset, as exact arithmetic reduced modulo 2^16. -/
theorem add_sext {n : Nat} (base : Word) (f : BitVec n) (h : n ≤ 16) :
    base + sext f = BitVec.ofInt 16 ((base.toNat : Int) + f.toInt) := by
  apply BitVec.eq_of_toInt_eq
  rw [BitVec.toInt_add, toInt_sext _ h, BitVec.toInt_ofInt, BitVec.toInt_eq_toNat_bmod]
  simp

/-- BR's test, bit by bit. -/
theorem branchTaken_iff (nzp : BitVec 3) (cond : Word) :
    branchTaken nzp cond = true ↔ ∃ k, k < 3 ∧ nzp.getLsbD k = true ∧ cond.getLsbD k = true := by
  rw [branchTaken, bne_iff_ne]
  constructor
  · intro h
    by_contra hn
    refine h (BitVec.eq_of_getLsbD_eq fun i hi => ?_)
    by_cases h3 : i < 3
    · have : ¬ (nzp.getLsbD i = true ∧ cond.getLsbD i = true) := fun h => hn ⟨i, h3, h⟩
      simpa [hi] using this
    · simp [BitVec.getLsbD_of_ge nzp i (by omega)]
  · rintro ⟨k, hk, h1, h2⟩ h0
    have := congrArg (fun x => x.getLsbD k) h0
    simp [h1, h2] at this
    omega

end Sys2Proof.Machine
end

