-- ==== Sys2Proof/Laws/PerInstr.lean ====
section
/-!
SUPPORT. RowMatch: the word the encoder gives a well-formed instruction matches that instruction's row of
spec/opcode_table.json, one lemma per constructor.
-/

namespace Sys2Proof.Laws

/-- The encoded word has the row's fixed bits. -/
def RowMatch.Statement (i : Instr) : Prop := i.wellFormed = true → encode i &&& i.rowMask = i.rowMatch

/-- A word under a mask is a match value if every bit is. -/
theorem RowMatch.of_bits {w mask val : Word}
    (h : ∀ i, i < 16 → (w.getLsbD i && mask.getLsbD i) = val.getLsbD i) : w &&& mask = val := by
  apply BitVec.eq_of_getLsbD_eq
  intro i hi
  simpa using h i hi

theorem RowMatch.wordDO_opcode (op : BitVec 4) (d : BitVec 3) (o : BitVec 9) :
    wordDO op d o &&& 0xF000#16 = op.setWidth 16 <<< 12 := by
  apply RowMatch.of_bits
  intro i hi
  rw [getLsbD_wordDO]
  interval_cases i <;> simp

theorem RowMatch.wordDSO_opcode (op : BitVec 4) (d s : BitVec 3) (o : BitVec 6) :
    wordDSO op d s o &&& 0xF000#16 = op.setWidth 16 <<< 12 := by
  apply RowMatch.of_bits
  intro i hi
  rw [getLsbD_wordDSO]
  interval_cases i <;> simp

theorem RowMatch.wordV_opcode (op u : BitVec 4) (v : BitVec 8) :
    wordV op u v &&& 0xF000#16 = op.setWidth 16 <<< 12 := by
  apply RowMatch.of_bits
  intro i hi
  rw [getLsbD_wordV]
  interval_cases i <;> simp

theorem RowMatch.wordDSO_reg (op : BitVec 4) (d s t : BitVec 3) :
    wordDSO op d s (0b000#3 ++ t) &&& 0xF020#16 = op.setWidth 16 <<< 12 := by
  apply RowMatch.of_bits
  intro i hi
  rw [getLsbD_wordDSO, getLsbD_regOperand]
  interval_cases i <;> simp

theorem RowMatch.wordDSO_imm (op : BitVec 4) (d s : BitVec 3) (m : BitVec 5) :
    wordDSO op d s (0b1#1 ++ m) &&& 0xF020#16 = op.setWidth 16 <<< 12 ||| 0x0020#16 := by
  apply RowMatch.of_bits
  intro i hi
  rw [getLsbD_wordDSO, getLsbD_immOperand]
  interval_cases i <;> simp

theorem RowMatch.br (nzp : BitVec 3) (off9 : BitVec 9) : RowMatch.Statement (.br nzp off9) :=
  fun _ => RowMatch.wordDO_opcode 0x0#4 nzp off9

theorem RowMatch.addReg (dr sr1 sr2 : Reg) : RowMatch.Statement (.addReg dr sr1 sr2) :=
  fun _ => RowMatch.wordDSO_reg 0x1#4 dr.bits sr1.bits sr2.bits

theorem RowMatch.addImm (dr sr1 : Reg) (imm5 : BitVec 5) : RowMatch.Statement (.addImm dr sr1 imm5) :=
  fun _ => RowMatch.wordDSO_imm 0x1#4 dr.bits sr1.bits imm5

theorem RowMatch.ld (dr : Reg) (off9 : BitVec 9) : RowMatch.Statement (.ld dr off9) :=
  fun _ => RowMatch.wordDO_opcode 0x2#4 dr.bits off9

theorem RowMatch.st (sr : Reg) (off9 : BitVec 9) : RowMatch.Statement (.st sr off9) :=
  fun _ => RowMatch.wordDO_opcode 0x3#4 sr.bits off9

theorem RowMatch.jsr (off11 : BitVec 11) : RowMatch.Statement (.jsr off11) := by
  intro _
  apply RowMatch.of_bits
  intro i hi
  rw [encode, getLsbD_wordFO]
  interval_cases i <;> simp [Instr.rowMask, Instr.rowMatch]

theorem RowMatch.jsrr (baseR : Reg) : RowMatch.Statement (.jsrr baseR) := by
  intro _
  apply RowMatch.of_bits
  intro i hi
  rw [encode, getLsbD_wordDSO]
  interval_cases i <;> simp [Instr.rowMask, Instr.rowMatch]

theorem RowMatch.andReg (dr sr1 sr2 : Reg) : RowMatch.Statement (.andReg dr sr1 sr2) :=
  fun _ => RowMatch.wordDSO_reg 0x5#4 dr.bits sr1.bits sr2.bits

theorem RowMatch.andImm (dr sr1 : Reg) (imm5 : BitVec 5) : RowMatch.Statement (.andImm dr sr1 imm5) :=
  fun _ => RowMatch.wordDSO_imm 0x5#4 dr.bits sr1.bits imm5

theorem RowMatch.ldr (dr baseR : Reg) (off6 : BitVec 6) : RowMatch.Statement (.ldr dr baseR off6) :=
  fun _ => RowMatch.wordDSO_opcode 0x6#4 dr.bits baseR.bits off6

theorem RowMatch.str (sr baseR : Reg) (off6 : BitVec 6) : RowMatch.Statement (.str sr baseR off6) :=
  fun _ => RowMatch.wordDSO_opcode 0x7#4 sr.bits baseR.bits off6

theorem RowMatch.rti : RowMatch.Statement .rti := fun _ => rfl

theorem RowMatch.not (dr sr : Reg) : RowMatch.Statement (.not dr sr) :=
  fun _ => RowMatch.wordDSO_opcode 0x9#4 dr.bits sr.bits 0b111111#6

theorem RowMatch.ldi (dr : Reg) (off9 : BitVec 9) : RowMatch.Statement (.ldi dr off9) :=
  fun _ => RowMatch.wordDO_opcode 0xA#4 dr.bits off9

theorem RowMatch.sti (sr : Reg) (off9 : BitVec 9) : RowMatch.Statement (.sti sr off9) :=
  fun _ => RowMatch.wordDO_opcode 0xB#4 sr.bits off9

theorem RowMatch.jmp (baseR : Reg) : RowMatch.Statement (.jmp baseR) :=
  fun _ => RowMatch.wordDSO_opcode 0xC#4 0b000#3 baseR.bits 0b000000#6

theorem RowMatch.res : RowMatch.Statement .res := fun _ => rfl

theorem RowMatch.lea (dr : Reg) (off9 : BitVec 9) : RowMatch.Statement (.lea dr off9) :=
  fun _ => RowMatch.wordDO_opcode 0xE#4 dr.bits off9

theorem RowMatch.trap (v : BitVec 8) : RowMatch.Statement (.trap v) :=
  fun _ => RowMatch.wordV_opcode 0xF#4 0b0000#4 v

theorem RowMatch.halt : RowMatch.Statement .halt := fun _ => rfl

theorem RowMatch.getc : RowMatch.Statement .getc := fun _ => rfl

theorem RowMatch.out : RowMatch.Statement .out := fun _ => rfl

theorem RowMatch.puts : RowMatch.Statement .puts := fun _ => rfl

theorem RowMatch.inChar : RowMatch.Statement .inChar := fun _ => rfl

theorem RowMatch.putsp : RowMatch.Statement .putsp := fun _ => rfl

end Sys2Proof.Laws
end

