-- ==== Sys2Proof/Laws/Step.lean ====
section
/-!
SUPPORT. What a step can do, said once.
-/

namespace Sys2Proof.Machine

/-- A step of a VM that is not running. -/
theorem step_stopped {s : State} (h : s.running = false) : step s = .next s := by simp [step, h, continueWith]

/-- A step of a running VM: fetch, execute, count. -/
theorem step_running {s : State} (h : s.running = true) :
    step s = countStep (exec (decode (s.memRead s.pc)) s.incrementPc) := by simp [step, h]

theorem countStep_eq_next (o : Host.Outcome State Fault Refusal) (t : State) :
    countStep o = .next t ↔ ∃ u, o = .next u ∧ u.setCount (u.count + 1) = t := by
  cases o <;> simp [countStep]

/-- Everything a step that answers can have done: nothing on a stopped VM; on a running one, one instruction's effect on
the state with PC advanced, and the count. -/
theorem step_cases {s t : State} (h : step s = .next t) :
    (s.running = false ∧ t = s) ∨
    (s.running = true ∧ ∃ u, exec (decode (s.memRead s.pc)) s.incrementPc = .next u ∧ Effect s.incrementPc u ∧
      t = u.setCount (u.count + 1)) := by
  cases hr : s.running with
  | false =>
    rw [step_stopped hr] at h
    exact .inl ⟨rfl, by simpa using h.symm⟩
  | true =>
    rw [step_running hr, countStep_eq_next] at h
    obtain ⟨u, hu, rfl⟩ := h
    exact .inr ⟨rfl, u, hu, exec_effect hu, rfl⟩

end Sys2Proof.Machine
end

