-- ==== Sys2Proof/Tests/Slice0.lean ====
section
/-!
SUPPORT. The model's own tests. Part 1: the WellFormed smoke test. Part 2: words written out from the spec's encodings.
Part 3: one step or one host operation each, with the expected values of 95_test_vectors.md (the table or vector is
named). Part 4: for every statement with hypotheses, concrete values that meet them, at the boundaries of each clause.
-/

namespace Sys2Proof.Tests

open Sys2Proof.Machine

/-! ### Helpers -/

/-- A running VM with the word `w` at PC and every other register and memory word 0x0000. -/
def vm (pc w cond : Word) : State :=
  { State.reset with pc := pc, cond := cond, status := .running, mem := Memory.write [] pc.toNat w }

/-- The state an outcome leads to, if it is a next state. -/
def next? : Host.Outcome State Fault Refusal → Option State
  | .next t => some t
  | .fault _ => none
  | .refused _ => none

/-- An outcome with a next state, and its state. -/
theorem next_of_isSome {o : Host.Outcome State Fault Refusal} (h : (next? o).isSome = true) : ∃ t, o = .next t := by
  cases o with
  | next t => exact ⟨t, rfl⟩
  | fault _ | refused _ => cases h

/-- What `f` reads after one step. -/
def after {α : Type} (s : State) (f : State → α) : Option α := (next? (step s)).map f

/-- What `f` reads after `run_for(n)`, and the value it returns. -/
def ran {α : Type} (n : Nat) (s : State) (f : State → α) : Option (α × StepValue) :=
  match runFor n s with
  | .next (t, v) => some (f t, v)
  | .fault _ => none
  | .refused _ => none

/-- What `f` reads after a host operation that succeeded. -/
def hosted {α : Type} (r : Except ErrorKind State) (f : State → α) : Option α :=
  match r with
  | .ok t => some (f t)
  | .error _ => none

/-- The error of a host operation that failed. -/
def failed {α : Type} : Except ErrorKind α → Option ErrorKind
  | .ok _ => none
  | .error k => some k

/-! ### Part 1. WellFormed: the one check, with terms it refuses and terms it passes -/

theorem test_wellFormed_refuses_trap_with_a_recognised_vector :
    (Instr.trap 0x20#8).wellFormed = false ∧ (Instr.trap 0x21#8).wellFormed = false ∧
    (Instr.trap 0x22#8).wellFormed = false ∧ (Instr.trap 0x23#8).wellFormed = false ∧
    (Instr.trap 0x24#8).wellFormed = false ∧ (Instr.trap 0x25#8).wellFormed = false := by decide

theorem test_wellFormed_passes_other_traps :
    (Instr.trap 0x1F#8).wellFormed = true ∧ (Instr.trap 0x26#8).wellFormed = true ∧
    Instr.halt.wellFormed = true := by decide

/-! ### Part 2. Words of every row, written from R96, R100, R105 and R106 -/

theorem test_decode_branch :
    decode 0b0000100111111101#16 = .br 0b100#3 (-3) ∧ decode 0b0000010000000101#16 = .br 0b010#3 5 ∧
    decode 0b0000111100000000#16 = .br 0b111#3 (-256) ∧ decode 0x0000#16 = .br 0b000#3 0 := by decide

theorem test_decode_operate :
    decode 0b0001000001000010#16 = .addReg .r0 .r1 .r2 ∧ decode 0b0001101101110000#16 = .addImm .r5 .r5 (-16) ∧
    decode 0b0101011001000010#16 = .andReg .r3 .r1 .r2 ∧ decode 0b0101100101111111#16 = .andImm .r4 .r5 (-1) ∧
    decode 0b1001000001111111#16 = .not .r0 .r1 := by decide

theorem test_decode_load_store :
    decode 0b0010001000000101#16 = .ld .r1 5 ∧ decode 0b1010010110100101#16 = .ldi .r2 (-91) ∧
    decode 0b0110011100100000#16 = .ldr .r3 .r4 (-32) ∧ decode 0b0011111011111111#16 = .st .r7 255 ∧
    decode 0b1011011000000101#16 = .sti .r3 5 ∧ decode 0b0111010010011111#16 = .str .r2 .r2 31 ∧
    decode 0b1110010111111111#16 = .lea .r2 (-1) := by decide

theorem test_decode_jump :
    decode 0b1100000111000000#16 = .jmp .r7 ∧ decode 0b0100100000000001#16 = .jsr 1 ∧
    decode 0b0100101111111111#16 = .jsr 1023 ∧ decode 0b0100000011000000#16 = .jsrr .r3 := by decide

theorem test_decode_system :
    decode 0b1111000000100101#16 = .halt ∧ decode 0b1111000000100000#16 = .getc ∧
    decode 0b1111000000100001#16 = .out ∧ decode 0b1111000000100010#16 = .puts ∧
    decode 0b1111000000100011#16 = .inChar ∧ decode 0b1111000000100100#16 = .putsp ∧
    decode 0b1111000011111111#16 = .trap 0xFF#8 ∧ decode 0b1000000000000000#16 = .rti ∧
    decode 0b1101000000000000#16 = .res := by decide

/-- Ignored bits (R102), from tables 2.2, 2.5, 2.7 and 2.8. -/
theorem test_decode_ignores_unused_bits :
    decode 0x105A#16 = .addReg .r0 .r1 .r2 ∧ decode 0x5A5A#16 = .andReg .r5 .r1 .r2 ∧ decode 0x9240#16 = .not .r1 .r1 ∧
    decode 0xCEBF#16 = .jmp .r2 ∧ decode 0x4600#16 = .jsrr .r0 ∧ decode 0xFF25#16 = .halt ∧ decode 0x8FFF#16 = .rti ∧
    decode 0xDFFF#16 = .res := by decide

/-- The words an assembler emits (R102, R105, R106). -/
theorem test_encode :
    encode (.not .r1 .r1) = 0x927F#16 ∧ encode (.jmp .r7) = 0xC1C0#16 ∧ encode .halt = 0xF025#16 ∧
    encode (.addImm .r1 .r1 (-1)) = 0x127F#16 ∧ encode (.jsr (-1024)) = 0x4C00#16 ∧
    encode (.str .r3 .r4 (-1)) = 0x773F#16 := by decide

/-- Table 2.1. -/
theorem test_sext :
    sext 0x0F#5 = 0x000F#16 ∧ sext 0x10#5 = 0xFFF0#16 ∧ sext 0x1F#6 = 0x001F#16 ∧ sext 0x20#6 = 0xFFE0#16 ∧
    sext 0x0FF#9 = 0x00FF#16 ∧ sext 0x100#9 = 0xFF00#16 ∧ sext 0x3FF#11 = 0x03FF#16 ∧ sext 0x400#11 = 0xFC00#16 ∧
    sext 0x1#1 = 0xFFFF#16 ∧ sext 0x8000#16 = 0x8000#16 ∧ zext 0xFF#8 = 0x00FF#16 := by decide

theorem test_decodeTableWord :
    decodeTableWord 16 0x1025 = some (.addImm .r0 .r0 5) ∧ decodeTableWord 32 0x1025 = none := by decide

/-! ### Part 3. One step or one host operation each -/

/-- Table 2.3. -/
theorem test_setcc :
    (State.reset.setcc 0x0000#16).cond = 0x0002#16 ∧ (State.reset.setcc 0x7FFF#16).cond = 0x0001#16 ∧
    (State.reset.setcc 0x8000#16).cond = 0x0004#16 ∧ (State.reset.setcc 0xFFFF#16).cond = 0x0004#16 := by decide

/-- Table 2.4. -/
theorem test_br_taken :
    after (vm 0x3004#16 0x09FD#16 0x0004#16) (fun t => (t.pc, t.cond)) = some (0x3002#16, 0x0004#16) := by decide

theorem test_br_not_taken :
    after (vm 0x3004#16 0x09FD#16 0x0002#16) (fun t => (t.pc, t.count)) = some (0x3005#16, 1) := by decide

theorem test_br_wraps_at_the_top :
    after (vm 0xFFFF#16 0x0E01#16 0x0001#16) (fun t => t.pc) = some 0x0001#16 := by decide

/-- Table 2.5. -/
theorem test_addReg :
    after { vm 0x3000#16 0x1042#16 0x0002#16 with regs := { Gprs.zero with r1 := 3, r2 := 0xFFFE } }
      (fun t => (t.pc, t.regs.r0, t.cond)) = some (0x3001#16, 0x0001#16, 0x0001#16) := by decide

theorem test_addReg_same_register :
    after { vm 0x3000#16 0x1241#16 0x0002#16 with regs := { Gprs.zero with r1 := 0x4000 } }
      (fun t => (t.regs.r1, t.cond)) = some (0x8000#16, 0x0004#16) := by decide

theorem test_addImm_most_negative :
    after { vm 0x3000#16 0x1B70#16 0x0001#16 with regs := { Gprs.zero with r5 := 0x0010 } }
      (fun t => (t.regs.r5, t.cond)) = some (0x0000#16, 0x0002#16) := by decide

theorem test_addImm_overflow_wraps :
    after { vm 0x3000#16 0x16A1#16 0x0002#16 with regs := { Gprs.zero with r2 := 0x7FFF } }
      (fun t => (t.regs.r3, t.cond)) = some (0x8000#16, 0x0004#16) := by decide

theorem test_andReg :
    after { vm 0x3000#16 0x5642#16 0x0002#16 with regs := { Gprs.zero with r1 := 0xF0F0, r2 := 0x8F00 } }
      (fun t => (t.regs.r3, t.cond)) = some (0x8000#16, 0x0004#16) := by decide

theorem test_andImm_most_negative :
    after { vm 0x3000#16 0x5970#16 0x0002#16 with regs := { Gprs.zero with r5 := 0xABCD } }
      (fun t => (t.regs.r4, t.cond)) = some (0xABC0#16, 0x0004#16) := by decide

theorem test_not :
    after { vm 0x3000#16 0x997F#16 0x0002#16 with regs := { Gprs.zero with r5 := 0x8000 } }
      (fun t => (t.regs.r4, t.cond)) = some (0x7FFF#16, 0x0001#16) := by decide

/-- Table 2.6. -/
theorem test_ld_wraps :
    after (vm 0xFFFF#16 0x21FF#16 0x0002#16) (fun t => (t.pc, t.regs.r0, t.cond)) =
      some (0x0000#16, 0x21FF#16, 0x0001#16) := by decide

theorem test_ldi :
    after (((vm 0x3000#16 0xA202#16 0x0002#16).memWrite 0x3003#16 0xFFFF#16).memWrite 0xFFFF#16 0xFFFE#16)
      (fun t => (t.regs.r1, t.cond)) = some (0xFFFE#16, 0x0004#16) := by decide

theorem test_ldr_base_is_destination :
    after { vm 0x3000#16 0x6481#16 0x0001#16 with regs := { Gprs.zero with r2 := 0x4000 } }
      (fun t => (t.regs.r2, t.cond)) = some (0x0000#16, 0x0002#16) := by decide

theorem test_ldr_most_negative :
    after (State.memWrite { vm 0x3000#16 0x6720#16 0x0002#16 with regs := { Gprs.zero with r4 := 0x4020 } }
      0x4000#16 0x9000#16) (fun t => (t.regs.r3, t.cond)) = some (0x9000#16, 0x0004#16) := by decide

theorem test_st :
    after { vm 0x3000#16 0x3EFF#16 0x0004#16 with regs := { Gprs.zero with r7 := 0xBEEF } }
      (fun t => (t.memRead 0x3100#16, t.cond)) = some (0xBEEF#16, 0x0004#16) := by decide

theorem test_sti_overwrites_its_pointer :
    after (State.memWrite { vm 0x3000#16 0xB201#16 0x0002#16 with regs := { Gprs.zero with r1 := 0x5555 } }
      0x3002#16 0x3002#16) (fun t => t.memRead 0x3002#16) = some 0x5555#16 := by decide

theorem test_str_wraps_below_zero :
    after { vm 0x3000#16 0x773F#16 0x0002#16 with regs := { Gprs.zero with r3 := 0x1111 } }
      (fun t => (t.memRead 0xFFFF#16, t.cond)) = some (0x1111#16, 0x0002#16) := by decide

theorem test_lea :
    after (vm 0x3000#16 0xE201#16 0x0002#16) (fun t => (t.regs.r1, t.cond)) = some (0x3002#16, 0x0001#16) := by decide

theorem test_lea_sets_zro :
    after (vm 0x0000#16 0xE5FF#16 0x0001#16) (fun t => (t.pc, t.regs.r2, t.cond)) =
      some (0x0001#16, 0x0000#16, 0x0002#16) := by decide

/-- Table 2.7. -/
theorem test_jmp_any_target :
    after { vm 0x3000#16 0xCEBF#16 0x0002#16 with regs := { Gprs.zero with r2 := 0x1235 } } (fun t => (t.pc, t.cond)) =
      some (0x1235#16, 0x0002#16) := by decide

theorem test_jsr :
    after (vm 0x3000#16 0x4C00#16 0x0002#16) (fun t => (t.pc, t.regs.r7)) = some (0x2C01#16, 0x3001#16) := by decide

theorem test_jsrr :
    after { vm 0x3010#16 0x40C0#16 0x0002#16 with regs := { Gprs.zero with r3 := 0x4000 } }
      (fun t => (t.pc, t.regs.r7)) = some (0x4000#16, 0x3011#16) := by decide

/-- `JSRR R7` under both values of JSRR_READS_BASE_FIRST. -/
theorem test_jsrr_r7 :
    after { vm 0x3010#16 0x41C0#16 0x0002#16 with regs := { Gprs.zero with r7 := 0x5000 } }
      (fun t => (t.pc, t.regs.r7)) = some (0x3011#16, 0x3011#16) ∧
    after { vm 0x3010#16 0x41C0#16 0x0002#16 with
        regs := { Gprs.zero with r7 := 0x5000 }, config := { initCond := .zro, jsrrReadsBaseFirst := true } }
      (fun t => (t.pc, t.regs.r7)) = some (0x5000#16, 0x3011#16) := by decide

/-- Table 2.8. -/
theorem test_halt :
    after (vm 0x3000#16 0xFF25#16 0x0002#16) (fun t => (t.pc, t.status, t.running, t.count)) =
      some (0x3001#16, .halted, false, 1) := by decide

theorem test_console_traps_without_a_capability :
    [0xF020#16, 0xF021#16, 0xF022#16, 0xF023#16, 0xF024#16].all (fun w =>
      after { vm 0x3000#16 w 0x0002#16 with regs := { Gprs.zero with r0 := 0x0041 } }
        (fun t => (t.pc, t.regs, t.cond, t.status)) ==
          some (0x3001#16, { Gprs.zero with r0 := 0x0041 }, 0x0002#16, .running)) = true := by decide

theorem test_trap_unknown_vectors :
    after (vm 0x3000#16 0xFFFF#16 0x0002#16) (fun t => (t.pc, t.status, t.regs.r7)) =
      some (0x3001#16, .errored (.unknownTrapVector 0xFF#8), 0x0000#16) ∧
    after (vm 0x3000#16 0xF01F#16 0x0002#16) (fun t => t.status) = some (.errored (.unknownTrapVector 0x1F#8)) ∧
    after (vm 0x3000#16 0xF026#16 0x0002#16) (fun t => t.status) = some (.errored (.unknownTrapVector 0x26#8)) := by
  decide

theorem test_rti :
    after (vm 0x3000#16 0x8000#16 0x0002#16) (fun t => (t.pc, t.status)) = some (0x3001#16, .errored .rtiUnsupported) := by
  decide

theorem test_res :
    after (vm 0x3000#16 0xD000#16 0x0002#16) (fun t => (t.pc, t.status)) = some (0x3001#16, .errored .reservedOpcode) := by
  decide

/-- S1 and S2: two steps each, with the value `run_for` returns. -/
theorem test_scenario_1 :
    ran 2 (State.reset.startProgram 0x3000#16 [0x1025#16, 0xF025#16])
      (fun t => (t.regs.r0, t.cond, t.count, t.running, t.pc)) =
        some ((0x0005#16, 0x0001#16, 2, false, 0x3002#16), .halted) := by decide

theorem test_scenario_2 :
    ran 2 (State.reset.startProgram 0x3000#16 [0xE201#16, 0xF025#16]) (fun t => (t.regs.r1, t.count)) =
      some ((0x3002#16, 2), .halted) := by decide

/-- S4, with the value `step()` returns. -/
theorem test_scenario_4 :
    ran 1 (State.reset.startProgram 0x3000#16 [0xFFFF#16]) (fun t => (t.running, t.pc, t.cond, t.count)) =
      some ((false, 0x3001#16, 0x0002#16, 1), .error (.unknownTrapVector 0xFF#8)) := by decide

/-- S5 and K7. -/
theorem test_initialize_overflow :
    failed (State.reset.initializeVm 0xFFFF#16 [1, 2]) = some (.loadOverflow 0xFFFF#16 2) ∧
    failed (State.reset.initializeVm 0xFFFE#16 [1, 2, 3]) = some (.loadOverflow 0xFFFE#16 3) ∧
    hosted (State.reset.initializeVm 0xFFFF#16 [1]) (fun t => (t.pc, t.memRead 0xFFFF#16, t.running)) =
      some (0xFFFF#16, 0x0001#16, true) := by decide

/-- K1. -/
theorem test_step_on_a_new_vm : after State.reset id = some State.reset := by decide

/-- K3. -/
theorem test_run_for_zero :
    ran 0 (State.reset.startProgram 0x3000#16 [0xF025#16]) (fun t => (t.pc, t.count, t.running)) =
      some ((0x3000#16, 0, true), .continued) := by decide

/-- K5. -/
theorem test_external_halt :
    after (State.reset.startProgram 0x3000#16 [0x0000#16]).haltVm (fun t => (t.status, t.count, t.pc)) =
      some (.halted, 0, 0x3000#16) := by decide

/-- K8, K9, K10. -/
theorem test_set_register :
    failed (State.reset.setRegister 9 0x0003#16) = some (.invalidRegisterWrite 9 0x0003#16) ∧
    hosted (State.reset.setRegister 9 0x0004#16) (fun t => t.cond) = some 0x0004#16 ∧
    failed (State.reset.setRegister 10 0x0000#16) = some (.invalidRegisterWrite 10 0x0000#16) ∧
    failed (State.reset.readRegister 10) = some (.registerBounds 10) := by decide

/-- K14, from a state with everything non-zero. -/
theorem test_reset :
    (State.resetVm { vm 0x3000#16 0x1025#16 0x0001#16 with regs := { Gprs.zero with r3 := 7 }, count := 9 }) =
      State.reset := by decide

/-- K15, both values of INIT_COND. -/
theorem test_init_cond :
    (State.reset.startProgram 0x3000#16 []).cond = 0x0002#16 ∧
    (State.startProgram { State.reset with config := { initCond := .zero, jsrrReadsBaseFirst := false } } 0x3000#16
      []).cond = 0x0000#16 := by decide

/-- The snapshot's 12 values (R275). -/
theorem test_snapshot :
    (State.reset.startProgram 0x3000#16 []).snapshot =
      { pc := 0x3000#16, regs := Gprs.zero, cond := 0x0002#16, count := 0, running := true } := by decide

/-- `withFetchWord`: the very next step runs the word, after reset and on a running VM. -/
theorem test_withFetchWord :
    after (State.reset.withFetchWord 16 0x1025) (fun t => (t.regs.r0, t.pc)) = some (0x0005#16, 0x0001#16) ∧
    after ((vm 0x3000#16 0xF025#16 0x0002#16).withFetchWord 16 0x8000) (fun t => t.status) =
      some (.errored .rtiUnsupported) := by decide

/-- Writing what an unlisted address reads as removes the entry; the list stays sorted. -/
theorem test_memory_is_canonical :
    Memory.write (Memory.write (Memory.write [] 0xFFFF 1) 0x0000 2) 0xFFFF 0 = [(0x0000, 2)] ∧
    Memory.write (Memory.write [] 0xFFFF 1) 0x0000 2 = [(0x0000, 2), (0xFFFF, 1)] := by decide

/-! ### Part 4. Witnesses: values that meet the hypotheses of each statement -/

/-- A running VM of part 4, with a word of its own at PC. -/
def running (w : Word) : State := vm 0x3000#16 w 0x0002#16

theorem witness_DecodeEncodeRoundTrip :
    (Instr.br 0b111#3 (-256)).wellFormed = true ∧ (Instr.trap 0x1F#8).wellFormed = true ∧
    (Instr.trap 0x26#8).wellFormed = true := by decide

theorem witness_EveryWordDecodesByItsOpcode_plain :
    [(0x0FFF#16, 0x0), (0x2FFF#16, 0x2), (0x3000#16, 0x3), (0x6FFF#16, 0x6), (0x7000#16, 0x7), (0x8FFF#16, 0x8),
      (0x9000#16, 0x9), (0xAFFF#16, 0xA), (0xB000#16, 0xB), (0xCFFF#16, 0xC), (0xDFFF#16, 0xD), (0xEFFF#16, 0xE)].all
      (fun c => decide (c.1.toNat / 4096 = c.2)) = true := by decide

theorem witness_EveryWordDecodesByItsOpcode_split :
    [0x1000#16, 0x1FDF#16].all (fun w => decide (w.toNat / 4096 = 0x1 ∧ w.getLsbD 5 = false)) = true ∧
    [0x1020#16, 0x1FFF#16].all (fun w => decide (w.toNat / 4096 = 0x1 ∧ w.getLsbD 5 = true)) = true ∧
    [0x4800#16, 0x4FFF#16].all (fun w => decide (w.toNat / 4096 = 0x4 ∧ w.getLsbD 11 = true)) = true ∧
    [0x4000#16, 0x47FF#16].all (fun w => decide (w.toNat / 4096 = 0x4 ∧ w.getLsbD 11 = false)) = true ∧
    [0x5000#16, 0x5FDF#16].all (fun w => decide (w.toNat / 4096 = 0x5 ∧ w.getLsbD 5 = false)) = true ∧
    [0x5020#16, 0x5FFF#16].all (fun w => decide (w.toNat / 4096 = 0x5 ∧ w.getLsbD 5 = true)) = true := by decide

theorem witness_EveryWordDecodesByItsOpcode_trap :
    [(0xFF20#16, 0x20), (0xFF21#16, 0x21), (0xFF22#16, 0x22), (0xFF23#16, 0x23), (0xFF24#16, 0x24),
      (0xFF25#16, 0x25)].all (fun c => decide (c.1.toNat / 4096 = 0xF ∧ c.1.toNat % 256 = c.2)) = true ∧
    [0xF000#16, 0xF01F#16, 0xF026#16, 0xFFFF#16].all (fun w =>
      decide (w.toNat / 4096 = 0xF ∧ (w.toNat % 256 < 0x20 ∨ 0x25 < w.toNat % 256))) = true := by decide

theorem witness_UnusedBitsAreIgnored :
    0x9240#16 &&& (decode 0x927F#16).usedBits = 0x927F#16 &&& (decode 0x927F#16).usedBits ∧
    0xFFFF#16 &&& (decode 0xF0FF#16).usedBits = 0xF0FF#16 &&& (decode 0xF0FF#16).usedBits := by decide

/-- Widths 1 and 16 of the contract, with the least and greatest bit numbers of its clauses. -/
theorem witness_SignExtensionContract :
    (1 ≤ 1 ∧ 1 ≤ 16 ∧ 0 < 1 ∧ 1 ≤ 15 ∧ 15 < 16) ∧ (1 ≤ 16 ∧ 16 ≤ 16 ∧ 15 < 16) := by decide

theorem witness_CanonicalMemoriesThatReadAlikeAreEqual :
    ∃ m m' : Memory, m ≠ [] ∧ m.wf ∧ m'.wf ∧ ∀ a, m.read a = m'.read a :=
  ⟨[(0, 1), (0xFFFF, 2)], Memory.write (Memory.write [] 0xFFFF 2) 0 1, by decide, by decide, by decide, fun _ => rfl⟩

theorem witness_MemoryBoundsCheckIsDead : 65536 ≤ 65536 := by decide

theorem witness_LoadProgramWritesExactlyTheProgram :
    65536 < (0xFFFF#16).toNat + [1#16, 2#16].length ∧ (0xFFFF#16).toNat + [1#16].length ≤ 65536 ∧
    0 < [1#16].length ∧ 65534 < (0xFFFF#16).toNat ∧ (0xFFFF#16).toNat + [1#16].length ≤ 65536 ∧
    Memory.wf [(0xFFFF, 2#16)] := by decide

theorem witness_RegisterFileByIdentifier : (0 ≤ 9 ∧ 9 ≤ 9 ∧ (10 : Nat) ≠ 9) ∧ 10 ≤ 10 := by decide

theorem witness_FetchReadsThenAdvances : (vm 0xFFFF#16 0x0E01#16 0x0001#16).pc = 0xFFFF#16 := by decide

theorem witness_BranchResult :
    (∃ k, k < 3 ∧ (0b100#3).getLsbD k = true ∧ (0x0004#16).getLsbD k = true) ∧
    ¬ ∃ k, k < 3 ∧ (0b011#3).getLsbD k = true ∧ (0x0004#16).getLsbD k = true := by
  constructor
  · exact ⟨2, by decide⟩
  · rintro ⟨k, hk, h⟩
    revert h
    revert k
    decide

theorem witness_CallResults :
    (Reg.r6 ≠ .r7) ∧ State.reset.config.jsrrReadsBaseFirst = false ∧
    (State.config { State.reset with config := { initCond := .zro, jsrrReadsBaseFirst := true } }).jsrrReadsBaseFirst
      = true := by decide

theorem witness_ConsoleTrapsWithoutCapabilityAreNoOps :
    (running 0xF020#16).io = .absent ∧
    ∀ i ∈ [Instr.getc, .out, .puts, .inChar, .putsp, .trap 0x20#8, .trap 0x24#8], ioTrapVector i ≠ none := by decide

theorem witness_ConsoleTrapsWithCapabilityFollowTheFreeValue :
    (State.io { running 0xF020#16 with io := .present 0 }) = .present 0 ∧
    ioTrapVector .getc = some 0x20#8 ∧ ioTrapVector .out = some 0x21#8 ∧ ioTrapVector .puts = some 0x22#8 ∧
    ioTrapVector .inChar = some 0x23#8 ∧ ioTrapVector .putsp = some 0x24#8 ∧
    ioTrapVector (.trap 0x20#8) = some 0x20#8 ∧ ioTrapVector (.trap 0x24#8) = some 0x24#8 := by decide

theorem witness_ErroringInstructionsOnlyStop :
    [0x00#8, 0x1F#8, 0x26#8, 0xFF#8].all (fun v => decide (v.toNat < 0x20 ∨ 0x25 < v.toNat)) = true := by decide

theorem witness_OnlyDestinationRegistersChange :
    ∃ t, NoConsole (.addImm .r0 .r1 5) (running 0x1065#16) ∧ exec (.addImm .r0 .r1 5) (running 0x1065#16) = .next t ∧
      destReg (.addImm .r0 .r1 5) ≠ some .r1 :=
  ⟨_, .inl rfl, rfl, by decide⟩

theorem witness_OnlyDestinationRegistersChange_console :
    ∃ t, NoConsole .getc (running 0xF020#16) ∧ exec .getc (running 0xF020#16) = .next t ∧ destReg .getc ≠ some .r0 :=
  ⟨_, .inr rfl, rfl, by decide⟩

theorem witness_OnlyValueProducersWriteCond :
    (∃ t, NoConsole (.lea .r0 0) (running 0xE000#16) ∧ exec (.lea .r0 0) (running 0xE000#16) = .next t ∧
      writesCond (.lea .r0 0) = true) ∧
    (∃ t, NoConsole (.st .r0 0) (running 0x3000#16) ∧ exec (.st .r0 0) (running 0x3000#16) = .next t ∧
      writesCond (.st .r0 0) = false) :=
  ⟨⟨_, .inl rfl, rfl, rfl⟩, _, .inl rfl, rfl, rfl⟩

theorem witness_OnlyStoresChangeMemory :
    (∃ t, exec (.str .r2 .r2 31) (running 0x749F#16) = .next t ∧
      storeTarget (running 0x749F#16) (.str .r2 .r2 31) = some (0x001F#16, .r2) ∧ (0x0020#16 : Word) ≠ 0x001F#16) ∧
    (∃ t, exec (.st .r1 (-1)) (running 0x33FF#16) = .next t ∧
      storeTarget (running 0x33FF#16) (.st .r1 (-1)) = some (0x2FFF#16, .r1)) ∧
    (∃ t, exec (.sti .r1 0) (running 0xB200#16) = .next t ∧
      storeTarget (running 0xB200#16) (.sti .r1 0) = some (0xB200#16, .r1)) ∧
    (∃ t, exec (.ld .r1 0) (running 0x2200#16) = .next t ∧ storeTarget (running 0x2200#16) (.ld .r1 0) = none) :=
  ⟨⟨_, rfl, by decide, by decide⟩, ⟨_, rfl, by decide⟩, ⟨_, rfl, by decide⟩, _, rfl, rfl⟩

theorem witness_OnlyControlFlowChangesPc :
    ∃ t, exec (.lea .r0 0) (running 0xE000#16) = .next t ∧ writesPc (.lea .r0 0) = false := ⟨_, rfl, rfl⟩

theorem witness_StepRunsTheDecodedInstruction :
    (running 0x1025#16).running = true ∧
    decode ((running 0x1025#16).memRead (running 0x1025#16).pc) = .addImm .r0 .r0 5 ∧
    (Instr.addImm .r0 .r0 5).wellFormed = true := by decide

theorem witness_StepOnStoppedVmIsANoOp :
    State.reset.running = false ∧ (State.setStatus State.reset .halted).running = false ∧
    (State.setStatus State.reset (.errored .reservedOpcode)).running = false := by decide

theorem witness_HaltStepStopsTheVm :
    [0xF025#16, 0xFF25#16].all (fun w => decide ((running w).running = true ∧
      ((running w).memRead (running w).pc).toNat / 4096 = 15 ∧
      ((running w).memRead (running w).pc).toNat % 256 = 0x25)) = true := by decide

theorem witness_UnknownTrapVectorStepErrors :
    [(0xF000#16, 0x00#8), (0xFF1F#16, 0x1F#8), (0xF026#16, 0x26#8), (0xFFFF#16, 0xFF#8)].all (fun c => decide (
      (running c.1).running = true ∧ ((running c.1).memRead (running c.1).pc).toNat / 4096 = 15 ∧
      c.2.toNat = ((running c.1).memRead (running c.1).pc).toNat % 256 ∧
      (c.2.toNat ≤ 0x1F ∨ 0x26 ≤ c.2.toNat))) = true := by decide

/-- Every step of a running VM in part 3 meets these two hypotheses; one of each outcome here. -/
theorem witness_StepOutcomeByWord :
    (running 0xD000#16).running = true ∧ (∃ t, step (running 0xD000#16) = .next t) ∧
    (running 0xF025#16).running = true ∧ (∃ t, step (running 0xF025#16) = .next t) ∧
    (running 0x1025#16).running = true ∧ (∃ t, step (running 0x1025#16) = .next t) :=
  ⟨by decide, ⟨_, rfl⟩, by decide, ⟨_, rfl⟩, by decide, ⟨_, rfl⟩⟩

theorem witness_ErrorStepsLeaveNoPartialEffect :
    ∃ t, (running 0x8000#16).running = true ∧ step (running 0x8000#16) = .next t ∧
      t.status = .errored .rtiUnsupported :=
  ⟨_, by decide, rfl, rfl⟩

theorem witness_OnlyAFailingConsoleStopsTheModel : State.reset.io = .absent := by decide

theorem witness_EveryStepKeepsTheInvariant :
    ∃ t, Inv (running 0x3E00#16) ∧ step (running 0x3E00#16) = .next t := ⟨_, by decide, rfl⟩

theorem witness_CondIsLegalFromInitializeOn :
    ∃ s₀ t v, State.reset.mem.wf ∧ State.reset.config.initCond = .zro ∧
      State.reset.initializeVm 0x3000#16 [0x1025#16] = .ok s₀ ∧ runFor 1 s₀ = .next (t, v) :=
  ⟨_, _, _, by decide, rfl, rfl, rfl⟩

theorem witness_CounterCountsFetchingSteps :
    (∃ t, step (running 0x8000#16) = .next t) ∧ ∃ t, step State.reset = .next t := ⟨⟨_, rfl⟩, _, rfl⟩

theorem witness_StepsKeepTheParameters :
    (∃ t, step (running 0xF020#16) = .next t ∧ (running 0xF020#16).io = .absent) ∧
    ∃ t, step { running 0x1025#16 with io := .present 3 } = .next t ∧
      (State.io { running 0x1025#16 with io := .present 3 }) = .present 3 :=
  ⟨⟨_, rfl, rfl⟩, _, rfl, rfl⟩

theorem witness_ZeroWordIsANoOp :
    (running 0x0000#16).running = true ∧ (running 0x0000#16).memRead (running 0x0000#16).pc = 0x0000#16 := by decide

/-- `ST R1,#0`, `STI R1,#1` through a pointer to the next word, and `STR R1,R0,#0` with the next word's address. -/
theorem witness_StoredWordIsFetchedByTheNextStep :
    (let s := running 0x3200#16
     s.running = true ∧ storeTarget { s with pc := s.pc + 1 } (decode (s.memRead s.pc)) = some (s.pc + 1, .r1)) ∧
    (let s := (running 0xB201#16).memWrite 0x3002#16 0x3001#16
     s.running = true ∧ storeTarget { s with pc := s.pc + 1 } (decode (s.memRead s.pc)) = some (s.pc + 1, .r1)) ∧
    (let s : State := { running 0x7200#16 with regs := { Gprs.zero with r0 := 0x3001 } }
     s.running = true ∧ storeTarget { s with pc := s.pc + 1 } (decode (s.memRead s.pc)) = some (s.pc + 1, .r1)) := by
  decide

theorem witness_ResetZeroesEverything :
    State.reset = State.reset ∧ ∃ s : State, State.resetVm (running 0x1025#16) = s.resetVm := ⟨rfl, _, rfl⟩

theorem witness_InitializeStartsTheProgram :
    (0xFFFF#16).toNat + [1#16].length ≤ 65536 ∧ 0 < [1#16].length ∧ (0x0000#16).toNat < (0xFFFF#16).toNat ∧
    (0x3000#16).toNat + [1#16].length ≤ (0x3001#16).toNat ∧
    State.reset.config.initCond = .zro ∧
    (State.config { State.reset with config := { initCond := .zero, jsrrReadsBaseFirst := false } }).initCond
      = .zero := by decide

theorem witness_InitializeRejectsOverflow :
    65536 < (0xFFFF#16).toNat + [1#16, 2#16].length ∧
    ∃ k, State.reset.initializeVm 0xFFFF#16 [1, 2] = .error k := ⟨by decide, _, rfl⟩

theorem witness_ExternalHaltOnlyStops : (running 0x0000#16).running = true ∧ State.reset.running = false := by decide

/-- The identifiers 8, 9 and 10 and the COND values at the clauses' edges. -/
theorem witness_SetRegisterKeepsCondLegal :
    (8 : Nat) ≤ 8 ∧ (9 = 9 ∧ ((0x0004#16 : Word) = 0x0001#16 ∨ (0x0004#16 : Word) = 0x0002#16 ∨
      (0x0004#16 : Word) = 0x0004#16)) ∧ (10 : Nat) ≤ 10 ∧
    (9 = 9 ∧ (0x0003#16 : Word) ≠ 0x0001#16 ∧ (0x0003#16 : Word) ≠ 0x0002#16 ∧ (0x0003#16 : Word) ≠ 0x0004#16) := by
  decide

theorem witness_StatusTransitionsAreExactlyTheseOnes :
    (∃ t, State.reset.initializeVm 0x3000#16 [] = .ok t) ∧
    (∃ t, step State.reset = .next t ∧ State.reset.status ≠ .running) ∧
    (∃ t, step (running 0xD000#16) = .next t ∧ (running 0xD000#16).status = .running) ∧
    (∃ t, State.reset.setRegister 9 0x0004#16 = .ok t) :=
  ⟨⟨_, rfl⟩, ⟨_, rfl, by decide⟩, ⟨_, rfl, by decide⟩, _, rfl⟩

theorem witness_RunForIsBounded :
    (∃ t v, runFor 2 (running 0x0000#16) = .next (t, v) ∧ t.running = true) ∧ State.reset.running = false :=
  ⟨⟨_, _, rfl, rfl⟩, rfl⟩

theorem witness_RunReturnsOnceStopped :
    (∃ t v, (running 0xF025#16).running = true ∧ RunReturns (running 0xF025#16) t v) ∧
    (∃ t v, (running 0xD000#16).running = true ∧ RunReturns (running 0xD000#16) t v) ∧
    State.reset.running = false :=
  ⟨⟨_, _, rfl, 1, rfl, rfl⟩, ⟨_, _, rfl, 1, rfl, rfl⟩, rfl⟩

end Sys2Proof.Tests
end

/-!
PROOF. The block's parameters along a step (00_scope.md R8; logs 4 to 7): what an effect and a step leave of INIT_COND,
JSRR_READS_BASE_FIRST and the console, and obligation O46.
-/

namespace Sys2Proof.Machine

section
variable {s t : State}

theorem Effect.config_eq (h : Effect s t) : t.config = s.config := by cases h <;> rfl

/-- Only a completed call of a capability that was there already touches the console. -/
theorem Effect.console_kept_or_called (h : Effect s t) :
    (t.io = s.io ∧ t.ioDraws = s.ioDraws) ∨
    (∃ st st', s.io = .present st ∧ t.io = .present st' ∧ t.ioDraws = s.ioDraws + 1) := by
  cases h with
  | console st hio g c st' => exact .inr ⟨st, st', hio, rfl, rfl⟩
  | same | jump | call | result | store | stop => exact .inl ⟨rfl, rfl⟩

theorem step_config_eq (h : step s = .next t) : t.config = s.config := by
  obtain ⟨-, rfl⟩ | ⟨-, u, -, hu, rfl⟩ := step_cases h
  · rfl
  · simpa using hu.config_eq

/-- A step calls the console at most once, and only where there is one. -/
theorem step_console_kept_or_called (h : step s = .next t) :
    (t.io = s.io ∧ t.ioDraws = s.ioDraws) ∨
    (∃ st st', s.io = .present st ∧ t.io = .present st' ∧ t.ioDraws = s.ioDraws + 1) := by
  obtain ⟨-, rfl⟩ | ⟨-, u, -, hu, rfl⟩ := step_cases h
  · exact .inl ⟨rfl, rfl⟩
  · simpa using hu.console_kept_or_called

end

/-- Settles O46: a step either leaves the console as it is, or calls one that was present and leaves one present. -/
theorem stepsKeepTheParameters : Obligations.StepsKeepTheParameters := by
  intro s t h
  refine ⟨step_config_eq h, ?_⟩
  obtain ⟨hio, hdraws⟩ | ⟨st, st', hs, ht, -⟩ := step_console_kept_or_called h
  · exact ⟨fun habs => ⟨hio.trans habs, hdraws⟩, fun st hst => ⟨st, hio.trans hst⟩⟩
  · exact ⟨fun habs => by simp [habs] at hs, fun _ _ => ⟨st', ht⟩⟩

end Sys2Proof.Machine

/-!
PROOF. The invariant (10_state.md R36; 20_memory.md R60): what an effect, a step and a bounded run keep of the canonical
form of memory and of a legal COND, and obligations O41, O42 and O43.
-/

namespace Sys2Proof.Machine

section
variable {s t : State}

theorem Effect.wf_mem (h : Effect s t) (hm : s.mem.wf) : t.mem.wf := by
  cases h with
  | store a v => exact State.wf_memWrite hm a v
  | same | jump | call | result | stop | console => exact hm

theorem Effect.isFlagValue_cond (h : Effect s t) (hc : IsFlagValue s.cond) : IsFlagValue t.cond := by
  cases h with
  | result dr v => exact flagWord_isFlagValue (signFlag v)
  | console st hio g c st' => exact State.ioCompleted_isFlagValue hc g c st'
  | same | jump | call | store | stop => exact hc

theorem step_wf_mem (h : step s = .next t) (hm : s.mem.wf) : t.mem.wf := by
  obtain ⟨-, rfl⟩ | ⟨-, u, -, hu, rfl⟩ := step_cases h
  · exact hm
  · exact hu.wf_mem hm

theorem step_isFlagValue_cond (h : step s = .next t) (hc : IsFlagValue s.cond) : IsFlagValue t.cond := by
  obtain ⟨-, rfl⟩ | ⟨-, u, -, hu, rfl⟩ := step_cases h
  · exact hc
  · exact hu.isFlagValue_cond hc

end

/-! ### Bounded runs -/

section
variable {P : State → Prop} (hP : ∀ s t, P s → step s = .next t → P t)
include hP

theorem runForLoop_invariant {n : Nat} {last v : StepValue} {s t : State} (hs : P s)
    (h : runForLoop n last s = .next (t, v)) : P t := by
  induction n generalizing last s with
  | zero => cases h; exact hs
  | succ n ih =>
    simp only [runForLoop] at h
    split at h
    · split at h
      next u hu => exact ih (hP s u hs hu) h
      next => cases h
      next => cases h
    · cases h; exact hs

/-- What every step keeps holds wherever `run_for(n)` ends. -/
theorem runFor_invariant {n : Nat} {v : StepValue} {s t : State} (hs : P s) (h : runFor n s = .next (t, v)) : P t :=
  runForLoop_invariant hP hs h

end

/-- `initializeVm` succeeds exactly where the program fits, and it leaves the state of R251. -/
theorem State.initializeVm_eq_ok {s t : State} {start : Word} {words : List Word} :
    s.initializeVm start words = .ok t ↔ start.toNat + words.length ≤ 65536 ∧ s.startProgram start words = t := by
  unfold State.initializeVm
  split
  next hlt => simp [hlt]
  next hle => simp [Nat.not_lt.1 hle]

theorem State.wf_startProgram {s : State} (hm : s.mem.wf) {start : Word} {words : List Word}
    (hfit : start.toNat + words.length ≤ 65536) : (s.startProgram start words).mem.wf :=
  Memory.wf_writeWords hm start.toNat words hfit

theorem State.isFlagValue_startProgram {s : State} (hz : s.config.initCond = .zro) (start : Word) (words : List Word) :
    IsFlagValue (s.startProgram start words).cond := by
  rw [State.startProgram_cond, hz]
  exact initCondWord_zro

/-- Settles O41: a stopped VM stays as it is; a running one is initialized, so its COND is a flag, which no effect of an
instruction undoes. -/
theorem everyStepKeepsTheInvariant : Obligations.EveryStepKeepsTheInvariant := by
  rintro s t ⟨hm, hc⟩ h
  refine ⟨step_wf_mem h hm, ?_⟩
  obtain ⟨-, rfl⟩ | ⟨hr, -⟩ := step_cases h
  · exact hc
  · have hinit : s.status ≠ .uninitialized := by simp [s.running_iff.1 hr]
    exact fun _ => step_isFlagValue_cond h (hc hinit)

/-- Settles O42: memory is empty and the VM is Uninitialized. -/
theorem resetMeetsTheInvariant : Obligations.ResetMeetsTheInvariant :=
  ⟨Memory.wf_nil, fun hinit => absurd rfl hinit⟩

/-- Settles O43: `initializeVm` establishes both properties and every step keeps them. -/
theorem condIsLegalFromInitializeOn : Obligations.CondIsLegalFromInitializeOn := by
  intro s s₀ start words hm hz hinit n t v hrun
  obtain ⟨hfit, rfl⟩ := State.initializeVm_eq_ok.1 hinit
  exact ⟨runFor_invariant (P := fun u => IsFlagValue u.cond) (fun _ _ hc h => step_isFlagValue_cond h hc)
      (State.isFlagValue_startProgram hz start words) hrun,
    runFor_invariant (P := fun u => u.mem.wf) (fun _ _ hm h => step_wf_mem h hm) (State.wf_startProgram hm hfit) hrun⟩

end Sys2Proof.Machine

/-!
PROOF. The register file by identifier (10_state.md R34, R42): which numbers are identifiers, a read after a write, and
obligation O14.
-/

namespace Sys2Proof.Machine

/-! ### Numbers and identifiers -/

/-- The number of an identifier (R42, D5), the inverse of `RegId.ofNat`. -/
def RegId.number : RegId → Nat
  | .gpr r => r.bits.toNat
  | .pc => 8
  | .cond => 9

@[simp] theorem RegId.ofNat_number (id : RegId) : RegId.ofNat id.number = some id := by
  cases id with
  | gpr r => cases r <;> rfl
  | pc | cond => rfl

theorem RegId.number_of_ofNat {n : Nat} {id : RegId} (h : RegId.ofNat n = some id) : id.number = n := by
  unfold RegId.ofNat at h
  split at h <;> cases h <;> rfl

theorem RegId.number_le (id : RegId) : id.number ≤ 9 := by
  cases id with
  | gpr r => cases r <;> decide
  | pc | cond => decide

theorem RegId.exists_number_eq {n : Nat} (h : n ≤ 9) : ∃ id : RegId, id.number = n := by
  suffices ∃ id, RegId.ofNat n = some id from this.imp fun _ => RegId.number_of_ofNat
  interval_cases n <;> exact ⟨_, rfl⟩

theorem RegId.ofNat_eq_none {n : Nat} (h : 10 ≤ n) : RegId.ofNat n = none := by
  rw [Option.eq_none_iff_forall_ne_some]
  intro id hid
  have hle := id.number_le
  rw [RegId.number_of_ofNat hid] at hle
  omega

/-! ### Reads and writes -/

section
variable (s : State) (id q : RegId) (v : Word)

@[simp] theorem State.readId_writeId : (s.writeId id v).readId q = if q = id then v else s.readId q := by
  cases id with
  | gpr r =>
    cases q with
    | gpr r' => simp [State.writeId, State.readId]
    | pc | cond => rfl
  | pc | cond => cases q <;> rfl

theorem State.sameMem_writeId : SameMem s (s.writeId id v) := by
  cases id <;> exact fun _ => rfl

theorem State.sameController_writeId : SameController s (s.writeId id v) := by
  cases id <;> exact ⟨rfl, rfl, rfl, rfl, rfl⟩

@[simp] theorem State.readRegister_number : s.readRegister id.number = .ok (s.readId id) := by
  simp [State.readRegister]

@[simp] theorem State.writeRegister_number : s.writeRegister id.number v = .ok (s.writeId id v) := by
  simp [State.writeRegister]

variable {n : Nat}

theorem State.readRegister_of_ge (h : 10 ≤ n) : s.readRegister n = .error (.registerBounds n) := by
  simp [State.readRegister, RegId.ofNat_eq_none h]

theorem State.writeRegister_of_ge (h : 10 ≤ n) : s.writeRegister n v = .error (.registerBounds n) := by
  simp [State.writeRegister, RegId.ofNat_eq_none h]

/-- A write to one identifier leaves what every other number reads as, also the numbers out of range. -/
theorem State.readRegister_writeId_of_ne (h : n ≠ id.number) :
    (s.writeId id v).readRegister n = s.readRegister n := by
  obtain hn | hn := Nat.lt_or_ge n 10
  · obtain ⟨other, rfl⟩ := RegId.exists_number_eq (Nat.le_of_lt_succ hn)
    have hother : other ≠ id := fun e => h (congrArg RegId.number e)
    simp [hother]
  · rw [State.readRegister_of_ge _ hn, State.readRegister_of_ge _ hn]

end

/-- Settles O14: the numbers up to 9 are those of the identifiers, and from 10 up there is none. -/
theorem registerFileByIdentifier : Obligations.RegisterFileByIdentifier := by
  refine ⟨fun s r => s.readRegister_number (.gpr r), fun s => ⟨s.readRegister_number .pc, s.readRegister_number .cond⟩,
    fun s n v hn => ?_, fun s n v hn => ⟨s.readRegister_of_ge hn, s.writeRegister_of_ge v hn⟩⟩
  obtain ⟨id, rfl⟩ := RegId.exists_number_eq hn
  exact ⟨s.writeId id v, s.writeRegister_number id v, by simp, fun _ h => s.readRegister_writeId_of_ne id v h,
    s.sameMem_writeId id v, s.sameController_writeId id v⟩

end Sys2Proof.Machine

/-!
PROOF. What each instruction can write: the inversion of `exec` with the instruction's own writer lists, and obligations
O30, O31 and O33 (10_state.md R32, R33, R43), with the sign rule of R37 (O8).
-/

namespace Sys2Proof.Machine

/-! ### The sign rule -/

/-- `update_condition_code` follows the sign rule of R37 as the statements write it. -/
theorem flagWord_signFlag_eq_signCond (v : Word) : flagWord (signFlag v) = signCond v := by
  have hzero : v.toInt = 0 ↔ v = 0x0000#16 := BitVec.toInt_inj (y := 0x0000#16)
  have hneg : v.toInt < 0 ↔ v.getLsbD 15 = true := by
    rw [← BitVec.msb_eq_getLsbD_last (x := v), BitVec.msb_eq_toInt, decide_eq_true_iff]
  simp only [flagWord_signFlag, signCond, hzero, hneg]

theorem flagWord_inj {f g : Flag} : flagWord f = flagWord g ↔ f = g := by
  cases f <;> cases g <;> decide

/-- Settles O8: `setcc` writes the flag of the sign rule, and a flag's word has no other flag set. -/
theorem conditionCodeFollowsTheSign : Obligations.ConditionCodeFollowsTheSign := by
  intro s v
  refine ⟨flagWord_signFlag_eq_signCond v, fun f => ?_, fun _ => rfl, rfl, fun _ => rfl, rfl, rfl, rfl, rfl, rfl⟩
  rw [State.isFlagSet_of_cond _ (signFlag v) f rfl, decide_eq_true_iff, ← flagWord_signFlag_eq_signCond, flagWord_inj]

/-! ### Everything one instruction can answer -/

/-- The writer lists of `i` in state `s`: destination `d` (R32), whether COND (R43) and PC (R33) are written, and the
store `st` (42_load_store.md R161, R163, R165). -/
structure Writes (s : State) (i : Instr) (d : Option Reg) (cond pc : Bool) (st : Option (Word × Reg)) : Prop where
  dest_eq : destReg i = d
  cond_eq : writesCond i = cond
  pc_eq : writesPc i = pc
  store_eq : storeTarget s i = st

/-- `Effect` with the instruction: each effect together with the writer lists that allow it. Which statuses a stop can
leave is `Effect`'s to say. -/
inductive EffectOf (i : Instr) (s : State) : State → Prop where
  | same (p : Bool) (w : Writes s i none false p none) : EffectOf i s s
  | jump (target : Word) (w : Writes s i none false true none) : EffectOf i s (s.setPc target)
  | call (target : Word) (w : Writes s i (some .r7) false true none) :
      EffectOf i s ((s.setReg .r7 s.pc).setPc target)
  | result (dr : Reg) (v : Word) (w : Writes s i (some dr) true false none) : EffectOf i s (s.writeResult dr v)
  | store (a : Word) (sr : Reg) (w : Writes s i none false false (some (a, sr))) :
      EffectOf i s (s.memWrite a (s.reg sr))
  | stop (st : Status) (w : Writes s i none false false none) : EffectOf i s (s.setStatus st)
  | console (v : BitVec 8) (hv : ioTrapVector i = some v) (st : Config.IoState) (hio : s.io = .present st)
      (g : Reg → Word) (c : Option Flag) (st' : Config.IoState) (w : Writes s i none false false none) :
      EffectOf i s (s.ioCompleted g c st')

section
variable {i : Instr} {s t : State}

theorem EffectOf.of_ioTrap {v : BitVec 8} (hv : ioTrapVector i = some v) (w : Writes s i none false false none)
    (h : ioTrap v s = .next t) : EffectOf i s t := by
  obtain ⟨-, h'⟩ | ⟨st, hio, ⟨g, c, st', h'⟩ | h'⟩ := ioTrap_cases v s <;> cases h'.symm.trans h
  · exact .same false w
  · exact .console v hv st hio g c st' w

theorem ioTrapVector_trap {v : BitVec 8} (h : v = 0x20#8 ∨ v = 0x21#8 ∨ v = 0x22#8 ∨ v = 0x23#8 ∨ v = 0x24#8) :
    ioTrapVector (.trap v) = some v := by
  rcases h with rfl | rfl | rfl | rfl | rfl <;> rfl

/-- What `exec` can do to the state, by the writer lists of the instruction. -/
theorem exec_effectOf (h : exec i s = .next t) : EffectOf i s t := by
  cases i with
  | br nzp off9 =>
    simp only [exec, execBr, continueWith_eq_next] at h
    subst h
    split
    · exact .jump _ ⟨rfl, rfl, rfl, rfl⟩
    · exact .same true ⟨rfl, rfl, rfl, rfl⟩
  | addReg | addImm | andReg | andImm | not | ld | ldi | ldr | lea =>
    cases h
    exact .result _ _ ⟨rfl, rfl, rfl, rfl⟩
  | st | sti | str => cases h; exact .store _ _ ⟨rfl, rfl, rfl, rfl⟩
  | jmp => cases h; exact .jump _ ⟨rfl, rfl, rfl, rfl⟩
  | jsr | jsrr => cases h; exact .call _ ⟨rfl, rfl, rfl, rfl⟩
  | halt | rti | res => cases h; exact .stop _ ⟨rfl, rfl, rfl, rfl⟩
  | getc | out | puts | inChar | putsp => exact .of_ioTrap rfl ⟨rfl, rfl, rfl, rfl⟩ h
  | trap v =>
    simp only [exec, execTrap] at h
    split at h
    · cases h; exact .stop _ ⟨rfl, rfl, rfl, rfl⟩
    · split at h
      next hv => exact .of_ioTrap (ioTrapVector_trap hv) ⟨rfl, rfl, rfl, rfl⟩ h
      next => cases h; exact .stop _ ⟨rfl, rfl, rfl, rfl⟩

theorem NoConsole.not_present {v : BitVec 8} {st : Config.IoState} (h : NoConsole i s) (hv : ioTrapVector i = some v) :
    s.io ≠ .present st := by
  obtain h | h := h
  · simp [h] at hv
  · simp [h]

end

/-- Settles O30: only a call and a result write a general register, and both name it as their destination. -/
theorem onlyDestinationRegistersChange : Obligations.OnlyDestinationRegistersChange := by
  intro i s t hno h r hr
  cases exec_effectOf h with
  | call target w =>
    have hne : r ≠ .r7 := fun e => hr (e ▸ w.dest_eq)
    simp [hne]
  | result dr v w =>
    have hne : r ≠ dr := fun e => hr (e ▸ w.dest_eq)
    simp [hne]
  | console v hv st hio => exact absurd hio (hno.not_present hv)
  | same | jump | store | stop => rfl

/-- Settles O31: of the effects only a result writes COND, and it does so from the word it leaves in DR. -/
theorem onlyValueProducersWriteCond : Obligations.OnlyValueProducersWriteCond := by
  intro i s t hno h
  cases exec_effectOf h with
  | result dr v w =>
    refine ⟨fun _ => ⟨dr, w.dest_eq, ?_⟩, fun hc => by simp [w.cond_eq] at hc⟩
    simpa using flagWord_signFlag_eq_signCond v
  | console v hv st hio => exact absurd hio (hno.not_present hv)
  | same _ w | jump _ w | call _ w | store _ _ w | stop _ w =>
    exact ⟨fun hc => by simp [w.cond_eq] at hc, fun _ => rfl⟩

/-- Settles O33: of the effects only a jump and a call write PC. -/
theorem onlyControlFlowChangesPc : Obligations.OnlyControlFlowChangesPc := by
  intro i s t h hp
  cases exec_effectOf h with
  | jump _ w | call _ w => simp [w.pc_eq] at hp
  | same | result | store | stop | console => rfl

end Sys2Proof.Machine

/-!
PROOF. PC increment and address arithmetic wrap (10_state.md R41), obligation O9.
-/

namespace Sys2Proof.Machine

/-- A base plus a sign-extended offset is the exact sum reduced modulo 65536. -/
theorem toNat_add_sext {n : Nat} (base : Word) (f : BitVec n) (h : n ≤ 16) :
    ((base + sext f).toNat : Int) = ((base.toNat : Int) + f.toInt) % 65536 := by
  rw [add_sext base f h, BitVec.toNat_ofInt]
  omega

/-- Settles O9: each address form is one sum of a base and a sign-extended offset. -/
theorem incrementPcWraps : Obligations.IncrementPcWraps := by
  intro s
  refine ⟨⟨?_, rfl, fun _ => rfl, rfl, fun _ => rfl, rfl, rfl, rfl, rfl, rfl⟩,
    fun off9 => toNat_add_sext s.pc off9 (by decide), fun off11 => toNat_add_sext s.pc off11 (by decide),
    fun baseR off6 => toNat_add_sext (s.reg baseR) off6 (by decide)⟩
  rw [State.incrementPc_pc, BitVec.toNat_add]
  rfl

end Sys2Proof.Machine

/-!
PROOF. The instruction counter (10_state.md R47, D10): no instruction writes it and none reads it; obligations O44 and
O45.
-/

namespace Sys2Proof.Machine

theorem Effect.count_eq {s t : State} (h : Effect s t) : t.count = s.count := by cases h <;> rfl

/-- Settles O44: no effect of an instruction touches the counter, so only the step's own count does. -/
theorem counterCountsFetchingSteps : Obligations.CounterCountsFetchingSteps := by
  intro s t h
  obtain ⟨hr, rfl⟩ | ⟨hr, u, -, hu, rfl⟩ := step_cases h
  · simp [hr]
  · simp [hr, hu.count_eq]

/-! ### The counter is never read -/

/-- An outcome with the counter of its next state replaced. -/
def outcomeSetCount (n : Nat) : Host.Outcome State Fault Refusal → Host.Outcome State Fault Refusal
  | .next t => .next (t.setCount n)
  | .fault f => .fault f
  | .refused r => .refused r

section
variable (s : State) (n : Nat)

theorem ioTrap_setCount (v : BitVec 8) : ioTrap v (s.setCount n) = outcomeSetCount n (ioTrap v s) := by
  cases hio : s.io with
  | absent => rw [ioTrap_absent hio, ioTrap_absent (s := s.setCount n) hio]; rfl
  | present st =>
    cases hr : s.ioResponse v st with
    | completes g c st' => rw [ioTrap_completes hio hr, ioTrap_completes (s := s.setCount n) hio hr]; rfl
    | fails => rw [ioTrap_fails hio hr, ioTrap_fails (s := s.setCount n) hio hr]; rfl

theorem exec_setCount (i : Instr) : exec i (s.setCount n) = outcomeSetCount n (exec i s) := by
  cases i with
  | br nzp off9 =>
    cases hb : branchTaken nzp s.cond <;> simp [exec, execBr, hb] <;> rfl
  | trap v =>
    simp only [exec, execTrap]
    split
    · rfl
    · split
      · exact ioTrap_setCount s n v
      · rfl
  | getc | out | puts | inChar | putsp => exact ioTrap_setCount s n _
  | addReg | addImm | andReg | andImm | not | ld | ldi | ldr | lea | st | sti | str | jmp | jsr | jsrr | halt | rti
  | res => rfl

theorem countStep_outcomeSetCount (o : Host.Outcome State Fault Refusal) :
    countStep (outcomeSetCount n o) = outcomeSetCount (n + 1) (countStep o) := by
  cases o <;> rfl

theorem step_setCount :
    step (s.setCount n) = outcomeSetCount (if s.running then n + 1 else n) (step s) := by
  cases hr : s.running with
  | false => rw [step_stopped hr, step_stopped (s := s.setCount n) hr]; rfl
  | true =>
    rw [step_running hr, step_running (s := s.setCount n) hr]
    exact (congrArg countStep (exec_setCount s.incrementPc n _)).trans (countStep_outcomeSetCount n _)

end

/-- Settles O45: replacing the counter before a step replaces it in the outcome, and nothing else. -/
theorem counterIsNeverRead : Obligations.CounterIsNeverRead := by
  intro s n
  rw [step_setCount]
  cases step s <;> rfl

end Sys2Proof.Machine

/-!
PROOF. The memory by its contents (20_memory.md R60 to R66): sequences of writes, what membership in a canonical list
says of a read, the bounds check on both sides of 65536, `load_program` and the fetch; obligations O10, O11, O12, O13
and O15.
-/

namespace Sys2Proof.Machine

/-! ### Sequences of writes -/

/-- The last write of a sequence decides what its address reads as. -/
theorem State.memRead_foldl_memWrite (s : State) (writes : List (Word × Word)) (a : Word) :
    (writes.foldl (fun u c => u.memWrite c.1 c.2) s).memRead a =
      ((writes.reverse.find? fun c => c.1 == a).map Prod.snd).getD (s.memRead a) := by
  induction writes using List.reverseRecOn with
  | nil => rfl
  | append_singleton writes c ih =>
    rw [List.foldl_concat, List.reverse_concat, State.memRead_memWrite]
    by_cases h : c.1 = a
    · simp [h]
    · simp [h, Ne.symm h, ih]

/-- Settles O10: one write by the read-after-write law, a sequence by induction from its last write. -/
theorem readReturnsMostRecentWrite : Obligations.ReadReturnsMostRecentWrite :=
  ⟨State.memRead_memWrite, State.memRead_foldl_memWrite⟩

/-! ### Canonical lists -/

section
variable {m m' : Memory} {a : Nat} {c : Nat × Word}

theorem Memory.mem_of_read_ne_unlisted (h : m.read a ≠ Memory.unlisted) : (a, m.read a) ∈ m := by
  induction m with
  | nil => exact absurd rfl h
  | cons d m ih =>
    obtain ⟨k, u⟩ := d
    by_cases hk : k = a
    · simp [Memory.read, hk]
    · simp only [Memory.read, hk, if_false] at h ⊢
      exact List.mem_cons_of_mem _ (ih h)

/-- Addresses that rise strictly list no address twice, so every entry is the one a read finds. -/
theorem Memory.read_of_mem (hp : m.Pairwise fun c d => c.1 < d.1) (hc : c ∈ m) : m.read c.1 = c.2 := by
  induction m with
  | nil => cases hc
  | cons d m ih =>
    obtain ⟨hd, hm⟩ := List.pairwise_cons.1 hp
    obtain rfl | hc := List.mem_cons.1 hc
    · simp [Memory.read]
    · simp [Memory.read, (hd c hc).ne, ih hm hc]

theorem Memory.mem_iff_of_wf (h : m.wf) : c ∈ m ↔ m.read c.1 = c.2 ∧ c.2 ≠ Memory.unlisted := by
  obtain ⟨hp, hu⟩ := h
  refine ⟨fun hc => ⟨Memory.read_of_mem hp hc, (hu c hc).2⟩, fun ⟨hr, hne⟩ => ?_⟩
  have hmem := Memory.mem_of_read_ne_unlisted (hr.trans_ne hne)
  rwa [hr] at hmem

theorem Memory.nodup_of_wf (h : m.wf) : m.Nodup := h.1.imp fun hlt e => hlt.ne (congrArg Prod.fst e)

/-- A canonical memory is determined by its entries: their order is that of their addresses. -/
theorem Memory.ext_of_wf (h : m.wf) (h' : m'.wf) (hmem : ∀ c, c ∈ m ↔ c ∈ m') : m = m' := by
  have hperm : m.Perm m' := (List.perm_ext_iff_of_nodup (nodup_of_wf h) (nodup_of_wf h')).2 hmem
  exact hperm.eq_of_pairwise (fun c d _ _ hcd hdc => absurd hcd hdc.not_gt) h.1 h'.1

end

/-- Settles O11: the entries of a canonical memory are its reads other than the unlisted word. -/
theorem canonicalMemoriesThatReadAlikeAreEqual : Obligations.CanonicalMemoriesThatReadAlikeAreEqual := by
  intro m m' h h' hread
  refine Memory.ext_of_wf h h' fun c => ?_
  rw [Memory.mem_iff_of_wf h, Memory.mem_iff_of_wf h', hread]

/-! ### The bounds check and `load_program` -/

section
variable (m : Memory) {a : Nat}

theorem Memory.readChecked_of_ge (h : 65536 ≤ a) : m.readChecked a = .error (.memoryBounds .data a) :=
  if_neg (Nat.not_lt.2 h)

theorem Memory.writeChecked_of_ge (v : Word) (h : 65536 ≤ a) : m.writeChecked a v = .error (.memoryBounds .data a) :=
  if_neg (Nat.not_lt.2 h)

theorem Memory.loadProgram_overflow {start : Word} {words : List Word} (h : 65536 < start.toNat + words.length) :
    m.loadProgram start words = .error (.loadOverflow start words.length) :=
  if_pos h

theorem Memory.read_writeWords_inside {words : List Word} {k : Nat} (h : k < words.length) :
    (m.writeWords a words).read (a + k) = words[k] := by
  simp [Memory.read_writeWords, h]

theorem Memory.read_writeWords_outside {words : List Word} {b : Nat} (h : b < a ∨ a + words.length ≤ b) :
    (m.writeWords a words).read b = m.read b := by
  rw [Memory.read_writeWords]
  obtain hlt | hge := h
  · rw [if_neg (Nat.not_le.2 hlt)]
  · have hnone : words[b - a]? = none := List.getElem?_eq_none (by omega)
    simp [hnone]

end

/-- Settles O12: a word's number is below 65536, where the check passes. -/
theorem memoryBoundsCheckIsDead : Obligations.MemoryBoundsCheckIsDead :=
  ⟨fun s a => s.mem.readChecked_word a, fun s a v => s.mem.writeChecked_word a v, fun m _ h => m.readChecked_of_ge h,
    fun m _ v h => m.writeChecked_of_ge v h⟩

/-- Settles O13: the check fails before any write; a program that fits is written by `writeWords`. -/
theorem loadProgramWritesExactlyTheProgram : Obligations.LoadProgramWritesExactlyTheProgram := by
  intro m start words
  refine ⟨m.loadProgram_overflow, fun hfit => ⟨m.writeWords start.toNat words, Memory.loadProgram_ok hfit, ?_⟩⟩
  exact ⟨fun _ hk => m.read_writeWords_inside hk, fun _ ha => m.read_writeWords_outside ha,
    fun hm => Memory.wf_writeWords hm start.toNat words hfit⟩

/-! ### The fetch -/

theorem State.jumpsTo_incrementPc (s : State) : JumpsTo s (s.pc + 1) s.incrementPc :=
  ⟨rfl, fun _ => rfl, rfl, fun _ => rfl, rfl, rfl, rfl, rfl, rfl⟩

/-- Settles O15: the fetch reads at the old PC, and its state is the old one with PC incremented. -/
theorem fetchReadsThenAdvances : Obligations.FetchReadsThenAdvances := by
  intro s
  refine ⟨s.fetchInstruction_fst, s.jumpsTo_incrementPc, fun htop => ?_⟩
  simp [htop]

end Sys2Proof.Machine

/-!
PROOF. Stores (20_memory.md R68, R79; 42_load_store.md R161, R163, R165): the one word a store writes, the instructions
that write none, and the fetch of a stored word; obligations O32 and O48.
-/

namespace Sys2Proof.Machine

/-- Settles O32: of the effects only a store writes memory, at the address its operands give. -/
theorem onlyStoresChangeMemory : Obligations.OnlyStoresChangeMemory := by
  intro i s t h
  cases exec_effectOf h with
  | store a sr w =>
    rw [w.store_eq]
    refine ⟨fun b r hsome => ?_, nofun⟩
    cases hsome
    exact ⟨by simp, fun b hb => by simp [hb]⟩
  | same _ w | jump _ w | call _ w | result _ _ w | stop _ w | console _ _ _ _ _ _ _ w =>
    rw [w.store_eq]
    exact ⟨nofun, fun _ _ => rfl⟩

/-- ST, STI and STR have one meaning: the source register's word at the address the operands give. -/
theorem exec_of_storeTarget {i : Instr} {s : State} {a : Word} {sr : Reg} (h : storeTarget s i = some (a, sr)) :
    exec i s = .next (s.memWrite a (s.reg sr)) := by
  cases i with
  | st | sti | str => cases h; rfl
  | _ => cases h

/-- The step of a running VM at a store. -/
theorem step_of_storeTarget {s : State} {a : Word} {sr : Reg} (hr : s.running = true)
    (h : storeTarget s.incrementPc (decode (s.memRead s.pc)) = some (a, sr)) :
    step s = .next ((s.incrementPc.memWrite a (s.reg sr)).setCount (s.count + 1)) := by
  rw [step_running hr, exec_of_storeTarget h]
  rfl

theorem step_of_memRead_pc {s : State} {w : Word} (hr : s.running = true) (hw : s.memRead s.pc = w) :
    step s = countStep (exec (decode w) s.incrementPc) := by
  rw [step_running hr, hw]

/-- Settles O48: after the store PC is the stored word's address, so the next step's fetch reads that word. -/
theorem storedWordIsFetchedByTheNextStep : Obligations.StoredWordIsFetchedByTheNextStep := by
  intro s sr hr hstore
  have hread : (s.incrementPc.memWrite (s.pc + 1) (s.reg sr)).memRead (s.pc + 1) = s.reg sr := by simp
  exact ⟨_, step_of_storeTarget hr hstore, hr, rfl, hread, step_of_memRead_pc hr hread⟩

end Sys2Proof.Machine

/-!
PROOF. Bit fields of an instruction word (30_encoding.md R90): a list of fields with their values, and words that agree
on the bits of the list.
-/

namespace Sys2Proof

/-- A field of an instruction word: the `len` bits from bit `lo` up, and what they hold. -/
structure BitField where
  lo : Nat
  len : Nat
  value : BitVec len

/-- The word `w` holds the field's value at the field's place. -/
def BitField.In (f : BitField) (w : Word) : Prop := w.extractLsb' f.lo f.len = f.value

/-- The bits of the field. -/
def BitField.mask (f : BitField) : Word := (BitVec.allOnes f.len).setWidth 16 <<< f.lo

/-- The bits of a list of fields. -/
def fieldsMask : List BitField → Word
  | [] => 0x0000#16
  | f :: fs => f.mask ||| fieldsMask fs

section
variable {w w' : Word}

theorem BitField.getLsbD_mask (f : BitField) {k : Nat} (hk : k < 16) :
    f.mask.getLsbD k = true ↔ f.lo ≤ k ∧ k < f.lo + f.len := by
  simp [BitField.mask]
  omega

/-- Two words agree under a field's mask exactly where they hold the same value in the field. -/
theorem BitField.and_mask_eq_iff (f : BitField) :
    w &&& f.mask = w' &&& f.mask ↔ w.extractLsb' f.lo f.len = w'.extractLsb' f.lo f.len := by
  constructor
  · intro h
    apply BitVec.eq_of_getLsbD_eq
    intro i hi
    by_cases hk : f.lo + i < 16
    · have hm := (f.getLsbD_mask hk).2 ⟨by omega, by omega⟩
      simpa [hi, hm] using congrArg (·.getLsbD (f.lo + i)) h
    · simp [hi, BitVec.getLsbD_of_ge _ (f.lo + i) (Nat.not_lt.1 hk)]
  · intro h
    apply BitVec.eq_of_getLsbD_eq
    intro k hk
    by_cases hm : f.mask.getLsbD k = true
    · obtain ⟨hlo, hhi⟩ := (f.getLsbD_mask hk).1 hm
      have hi : k - f.lo < f.len := by omega
      simpa [hm, hi, hlo] using congrArg (·.getLsbD (k - f.lo)) h
    · simp [hm]

theorem and_or_eq_iff (m n : Word) : w &&& (m ||| n) = w' &&& (m ||| n) ↔ w &&& m = w' &&& m ∧ w &&& n = w' &&& n := by
  constructor
  · intro h
    have hm : (m ||| n) &&& m = m := by ext; grind
    have hn : (m ||| n) &&& n = n := by ext; grind
    constructor
    · rw [← hm, ← BitVec.and_assoc, h, BitVec.and_assoc]
    · rw [← hn, ← BitVec.and_assoc, h, BitVec.and_assoc]
  · rintro ⟨hm, hn⟩
    rw [BitVec.and_or_distrib_left, hm, hn, BitVec.and_or_distrib_left]

/-- Of a word that holds every field of a list: another word holds them exactly where it agrees on the fields' bits. -/
theorem forall_in_iff_agree {fs : List BitField} (h : fs.Forall (·.In w)) :
    fs.Forall (·.In w') ↔ w' &&& fieldsMask fs = w &&& fieldsMask fs := by
  induction fs with
  | nil => simp [fieldsMask]
  | cons f fs ih =>
    rw [List.forall_cons] at h
    obtain ⟨hf : w.extractLsb' f.lo f.len = f.value, hfs⟩ := h
    rw [List.forall_cons, fieldsMask, and_or_eq_iff, ih hfs, f.and_mask_eq_iff, BitField.In, hf]

end

end Sys2Proof

/-!
PROOF. The encoding (30_encoding.md R96, R100 to R104): the fields of each instruction's format, that the decoder reads
exactly them and the encoder writes them, and obligations O1 to O6.
-/

namespace Sys2Proof

/-! ### The fields of each format (R96, R100) -/

/-- What a word of instruction `i` holds: the opcode, the bits that split a row, and the operands. -/
def Instr.fields : Instr → List BitField
  | .br nzp off9 => [⟨12, 4, 0x0⟩, ⟨9, 3, nzp⟩, ⟨0, 9, off9⟩]
  | .addReg dr sr1 sr2 => [⟨12, 4, 0x1⟩, ⟨5, 1, 0⟩, ⟨9, 3, dr.bits⟩, ⟨6, 3, sr1.bits⟩, ⟨0, 3, sr2.bits⟩]
  | .addImm dr sr1 imm5 => [⟨12, 4, 0x1⟩, ⟨5, 1, 1⟩, ⟨9, 3, dr.bits⟩, ⟨6, 3, sr1.bits⟩, ⟨0, 5, imm5⟩]
  | .ld dr off9 => [⟨12, 4, 0x2⟩, ⟨9, 3, dr.bits⟩, ⟨0, 9, off9⟩]
  | .st sr off9 => [⟨12, 4, 0x3⟩, ⟨9, 3, sr.bits⟩, ⟨0, 9, off9⟩]
  | .jsr off11 => [⟨12, 4, 0x4⟩, ⟨11, 1, 1⟩, ⟨0, 11, off11⟩]
  | .jsrr baseR => [⟨12, 4, 0x4⟩, ⟨11, 1, 0⟩, ⟨6, 3, baseR.bits⟩]
  | .andReg dr sr1 sr2 => [⟨12, 4, 0x5⟩, ⟨5, 1, 0⟩, ⟨9, 3, dr.bits⟩, ⟨6, 3, sr1.bits⟩, ⟨0, 3, sr2.bits⟩]
  | .andImm dr sr1 imm5 => [⟨12, 4, 0x5⟩, ⟨5, 1, 1⟩, ⟨9, 3, dr.bits⟩, ⟨6, 3, sr1.bits⟩, ⟨0, 5, imm5⟩]
  | .ldr dr baseR off6 => [⟨12, 4, 0x6⟩, ⟨9, 3, dr.bits⟩, ⟨6, 3, baseR.bits⟩, ⟨0, 6, off6⟩]
  | .str sr baseR off6 => [⟨12, 4, 0x7⟩, ⟨9, 3, sr.bits⟩, ⟨6, 3, baseR.bits⟩, ⟨0, 6, off6⟩]
  | .rti => [⟨12, 4, 0x8⟩]
  | .not dr sr => [⟨12, 4, 0x9⟩, ⟨9, 3, dr.bits⟩, ⟨6, 3, sr.bits⟩]
  | .ldi dr off9 => [⟨12, 4, 0xA⟩, ⟨9, 3, dr.bits⟩, ⟨0, 9, off9⟩]
  | .sti sr off9 => [⟨12, 4, 0xB⟩, ⟨9, 3, sr.bits⟩, ⟨0, 9, off9⟩]
  | .jmp baseR => [⟨12, 4, 0xC⟩, ⟨6, 3, baseR.bits⟩]
  | .res => [⟨12, 4, 0xD⟩]
  | .lea dr off9 => [⟨12, 4, 0xE⟩, ⟨9, 3, dr.bits⟩, ⟨0, 9, off9⟩]
  | .trap v => [⟨12, 4, 0xF⟩, ⟨0, 8, v⟩]
  | .halt => [⟨12, 4, 0xF⟩, ⟨0, 8, 0x25⟩]
  | .getc => [⟨12, 4, 0xF⟩, ⟨0, 8, 0x20⟩]
  | .out => [⟨12, 4, 0xF⟩, ⟨0, 8, 0x21⟩]
  | .puts => [⟨12, 4, 0xF⟩, ⟨0, 8, 0x22⟩]
  | .inChar => [⟨12, 4, 0xF⟩, ⟨0, 8, 0x23⟩]
  | .putsp => [⟨12, 4, 0xF⟩, ⟨0, 8, 0x24⟩]

/-- `i` is a well-formed instruction all of whose fields the word `w` holds. -/
def Instr.ReadFrom (i : Instr) (w : Word) : Prop := i.wellFormed = true ∧ i.fields.Forall (·.In w)

/-- The fields cover exactly the bits the format uses (R102). -/
theorem Instr.fieldsMask_fields (i : Instr) : fieldsMask i.fields = i.usedBits := by
  cases i <;> simp [fieldsMask, BitField.mask, Instr.fields, Instr.usedBits]

/-! ### What the decoder reads -/

/-- The opcode whose bits are `b15` to `b12`. -/
def opcodeOfBits (b15 b14 b13 b12 : Bool) : BitVec 4 :=
  BitVec.ofBool b15 ++ (BitVec.ofBool b14 ++ (BitVec.ofBool b13 ++ BitVec.ofBool b12))

theorem opcodeOfBits_getLsbD (op : BitVec 4) :
    opcodeOfBits (op.getLsbD 3) (op.getLsbD 2) (op.getLsbD 1) (op.getLsbD 0) = op := by
  revert op
  decide

theorem wellFormed_trap_iff {v : BitVec 8} : (Instr.trap v).wellFormed = true ↔ recognisedVector v = false := by
  simp [Instr.wellFormed]

theorem decodeTrap_of_not_recognised {v : BitVec 8} (h : recognisedVector v = false) : decodeTrap v = .trap v := by
  simp only [recognisedVector, Bool.or_eq_false_iff, beq_eq_false_iff_ne] at h
  simp [decodeTrap, h]

section
variable {w w' : Word} {i : Instr}

/-- A field of one bit holds that bit. -/
theorem bit_field_iff {k : Nat} {b : Bool} : w.extractLsb' k 1 = BitVec.ofBool b ↔ w.getLsbD k = b := by
  constructor
  · intro h
    simpa using congrArg (·.getLsbD 0) h
  · intro h
    ext i hi
    obtain rfl : i = 0 := by omega
    simpa using h

/-- The decoder answers only what the word's fields say. -/
theorem Instr.ReadFrom.decode_eq (h : i.ReadFrom w) : decode w = i := by
  obtain ⟨hwf, h⟩ := h
  cases i with
  | rti | res => exact decode_of_opcode h
  | br nzp off9 =>
    obtain ⟨hop, hn : fieldNzp w = nzp, ho : fieldPCoffset9 w = off9⟩ := h
    simp [decode_of_opcode hop, decodeByOpcode, hn, ho]
  | ld r off9 | st r off9 | ldi r off9 | sti r off9 | lea r off9 =>
    obtain ⟨hop, hr : fieldDR w = r.bits, ho : fieldPCoffset9 w = off9⟩ := h
    simp [decode_of_opcode hop, decodeByOpcode, hr, ho]
  | ldr r baseR off6 | str r baseR off6 =>
    obtain ⟨hop, hr : fieldDR w = r.bits, hb : fieldSR1 w = baseR.bits, ho : fieldOffset6 w = off6⟩ := h
    simp [decode_of_opcode hop, decodeByOpcode, hr, hb, ho]
  | not dr sr =>
    obtain ⟨hop, hd : fieldDR w = dr.bits, hs : fieldSR1 w = sr.bits⟩ := h
    simp [decode_of_opcode hop, decodeByOpcode, hd, hs]
  | jmp baseR =>
    obtain ⟨hop, hb : fieldSR1 w = baseR.bits⟩ := h
    simp [decode_of_opcode hop, decodeByOpcode, hb]
  | jsr off11 =>
    obtain ⟨hop, hf, ho : fieldPCoffset11 w = off11⟩ := h
    have hflag : fieldJsrFlag w = true := bit_field_iff.1 hf
    simp [decode_of_opcode hop, decodeByOpcode, hflag, ho]
  | jsrr baseR =>
    obtain ⟨hop, hf, hb : fieldSR1 w = baseR.bits⟩ := h
    have hflag : fieldJsrFlag w = false := bit_field_iff.1 hf
    simp [decode_of_opcode hop, decodeByOpcode, hflag, hb]
  | addReg dr sr1 sr2 | andReg dr sr1 sr2 =>
    obtain ⟨hop, hf, hd : fieldDR w = dr.bits, hs : fieldSR1 w = sr1.bits, ht : fieldSR2 w = sr2.bits⟩ := h
    have hflag : fieldImmFlag w = false := bit_field_iff.1 hf
    simp [decode_of_opcode hop, decodeByOpcode, hflag, hd, hs, ht]
  | addImm dr sr1 imm5 | andImm dr sr1 imm5 =>
    obtain ⟨hop, hf, hd : fieldDR w = dr.bits, hs : fieldSR1 w = sr1.bits, hi : fieldImm5 w = imm5⟩ := h
    have hflag : fieldImmFlag w = true := bit_field_iff.1 hf
    simp [decode_of_opcode hop, decodeByOpcode, hflag, hd, hs, hi]
  | halt | getc | out | puts | inChar | putsp =>
    obtain ⟨hop, hv⟩ := h
    exact (decode_of_opcode hop).trans (congrArg decodeTrap hv)
  | trap v =>
    obtain ⟨hop, hv⟩ := h
    rw [wellFormed_trap_iff] at hwf
    exact (decode_of_opcode hop).trans ((congrArg decodeTrap hv).trans (decodeTrap_of_not_recognised hwf))

theorem readFrom_decodeTrap (hop : fieldOpcode w = 0xF#4) : (decodeTrap (fieldTrapvect8 w)).ReadFrom w := by
  unfold decodeTrap
  split_ifs with h₁ h₂ h₃ h₄ h₅ h₆
  · exact ⟨rfl, hop, h₁⟩
  · exact ⟨rfl, hop, h₂⟩
  · exact ⟨rfl, hop, h₃⟩
  · exact ⟨rfl, hop, h₄⟩
  · exact ⟨rfl, hop, h₅⟩
  · exact ⟨rfl, hop, h₆⟩
  · exact ⟨wellFormed_trap_iff.2 (by simp [recognisedVector, *]), hop, rfl⟩

theorem bits_eq_ofBits_bits (b : BitVec 3) : b = (Reg.ofBits b).bits := (Reg.bits_ofBits b).symm

/-- Row by row of R100's table, the decoder's answer takes its operands from the word's fields. -/
theorem readFrom_decodeByOpcode : ∀ {b15 b14 b13 b12 : Bool}, fieldOpcode w = opcodeOfBits b15 b14 b13 b12 →
    (decodeByOpcode b15 b14 b13 b12 w).ReadFrom w
  | false, false, false, false, hop => ⟨rfl, hop, rfl, rfl⟩
  | false, false, false, true, hop | false, true, false, true, hop => by
    simp only [decodeByOpcode]
    cases hf : fieldImmFlag w
    · exact ⟨rfl, hop, bit_field_iff.2 hf, bits_eq_ofBits_bits _, bits_eq_ofBits_bits _, bits_eq_ofBits_bits _⟩
    · exact ⟨rfl, hop, bit_field_iff.2 hf, bits_eq_ofBits_bits _, bits_eq_ofBits_bits _, rfl⟩
  | false, true, false, false, hop => by
    simp only [decodeByOpcode]
    cases hf : fieldJsrFlag w
    · exact ⟨rfl, hop, bit_field_iff.2 hf, bits_eq_ofBits_bits _⟩
    · exact ⟨rfl, hop, bit_field_iff.2 hf, rfl⟩
  | false, false, true, false, hop | false, false, true, true, hop | true, false, true, false, hop
  | true, false, true, true, hop | true, true, true, false, hop => ⟨rfl, hop, bits_eq_ofBits_bits _, rfl⟩
  | false, true, true, false, hop | false, true, true, true, hop =>
    ⟨rfl, hop, bits_eq_ofBits_bits _, bits_eq_ofBits_bits _, rfl⟩
  | true, false, false, false, hop | true, true, false, true, hop => ⟨rfl, hop⟩
  | true, false, false, true, hop => ⟨rfl, hop, bits_eq_ofBits_bits _, bits_eq_ofBits_bits _⟩
  | true, true, false, false, hop => ⟨rfl, hop, bits_eq_ofBits_bits _⟩
  | true, true, true, true, hop => readFrom_decodeTrap hop

theorem readFrom_decode (w : Word) : (decode w).ReadFrom w :=
  readFrom_decodeByOpcode (opcodeOfBits_getLsbD (fieldOpcode w)).symm

theorem wellFormed_decode (w : Word) : (decode w).wellFormed = true := (readFrom_decode w).1

/-- The encoder puts every field at its place. -/
theorem readFrom_encode (hwf : i.wellFormed = true) : i.ReadFrom (encode i) := by
  refine ⟨hwf, ?_⟩
  cases i with
  | br | ld | st | ldi | sti | lea => exact ⟨fieldOpcode_wordDO .., fieldDR_wordDO .., fieldPCoffset9_wordDO ..⟩
  | addReg | andReg =>
    exact ⟨fieldOpcode_wordDSO .., bit_field_iff.2 (fieldImmFlag_regOperand ..), fieldDR_wordDSO ..,
      fieldSR1_wordDSO .., fieldSR2_wordDSO ..⟩
  | addImm | andImm =>
    exact ⟨fieldOpcode_wordDSO .., bit_field_iff.2 (fieldImmFlag_immOperand ..), fieldDR_wordDSO ..,
      fieldSR1_wordDSO .., fieldImm5_wordDSO ..⟩
  | jsr => exact ⟨fieldOpcode_wordFO .., bit_field_iff.2 (fieldJsrFlag_wordFO ..), fieldPCoffset11_wordFO ..⟩
  | jsrr => exact ⟨fieldOpcode_wordDSO .., bit_field_iff.2 (fieldJsrFlag_wordDSO ..), fieldSR1_wordDSO ..⟩
  | ldr | str =>
    exact ⟨fieldOpcode_wordDSO .., fieldDR_wordDSO .., fieldSR1_wordDSO .., fieldOffset6_wordDSO ..⟩
  | not => exact ⟨fieldOpcode_wordDSO .., fieldDR_wordDSO .., fieldSR1_wordDSO ..⟩
  | jmp => exact ⟨fieldOpcode_wordDSO .., fieldSR1_wordDSO ..⟩
  | rti | res => exact fieldOpcode_wordDSO ..
  | trap | halt | getc | out | puts | inChar | putsp => exact ⟨fieldOpcode_wordV .., fieldTrapvect8_wordV ..⟩

/-- Another word is one of `i` too exactly where it agrees on the bits the format uses (R102). -/
theorem Instr.ReadFrom.iff_agree (h : i.ReadFrom w) : i.ReadFrom w' ↔ w' &&& i.usedBits = w &&& i.usedBits := by
  obtain ⟨hwf, h⟩ := h
  rw [← i.fieldsMask_fields, ← forall_in_iff_agree h, Instr.ReadFrom, and_iff_right hwf]

end

/-- Settles O2: the encoder's word holds every field of the instruction. -/
theorem decodeEncodeRoundTrip : Obligations.DecodeEncodeRoundTrip :=
  fun _ hwf => (readFrom_encode hwf).decode_eq

/-- Settles O5: a word that agrees on the used bits holds the same fields. -/
theorem unusedBitsAreIgnored : Obligations.UnusedBitsAreIgnored :=
  fun w _ h => ((readFrom_decode w).iff_agree.2 h).decode_eq

/-- Settles O6: the word and the encoder's word both hold every field of the decoded instruction. -/
theorem encodeOfDecodeKeepsUsedBits : Obligations.EncodeOfDecodeKeepsUsedBits :=
  fun w => (readFrom_decode w).iff_agree.1 (readFrom_encode (wellFormed_decode w))

/-! ### The rows of the opcode table -/

/-- The bits a row fixes are bits its format uses. -/
theorem Instr.usedBits_and_rowMask (i : Instr) : i.usedBits &&& i.rowMask = i.rowMask := by
  cases i <;> simp only [Instr.usedBits, Instr.rowMask] <;> decide

theorem encode_and_rowMask (i : Instr) : Laws.RowMatch.Statement i := by
  cases i
  exacts [Laws.RowMatch.br _ _, Laws.RowMatch.addReg _ _ _, Laws.RowMatch.addImm _ _ _, Laws.RowMatch.ld _ _,
    Laws.RowMatch.st _ _, Laws.RowMatch.jsr _, Laws.RowMatch.jsrr _, Laws.RowMatch.andReg _ _ _,
    Laws.RowMatch.andImm _ _ _, Laws.RowMatch.ldr _ _ _, Laws.RowMatch.str _ _ _, Laws.RowMatch.rti,
    Laws.RowMatch.not _ _, Laws.RowMatch.ldi _ _, Laws.RowMatch.sti _ _, Laws.RowMatch.jmp _, Laws.RowMatch.res,
    Laws.RowMatch.lea _ _, Laws.RowMatch.trap _, Laws.RowMatch.halt, Laws.RowMatch.getc, Laws.RowMatch.out,
    Laws.RowMatch.puts, Laws.RowMatch.inChar, Laws.RowMatch.putsp]

/-- Settles O4: on the bits of the row the word is the encoder's word, which matches the row. -/
theorem decodedWordMatchesItsTableRow : Obligations.DecodedWordMatchesItsTableRow := by
  intro w
  refine ⟨wellFormed_decode w, ?_⟩
  calc w &&& (decode w).rowMask
      = w &&& (decode w).usedBits &&& (decode w).rowMask := by rw [BitVec.and_assoc, Instr.usedBits_and_rowMask]
    _ = encode (decode w) &&& (decode w).rowMask := by
      rw [← encodeOfDecodeKeepsUsedBits w, BitVec.and_assoc, Instr.usedBits_and_rowMask]
    _ = (decode w).rowMatch := encode_and_rowMask _ (wellFormed_decode w)

section
variable {w : Word}

theorem fieldOpcode_of_toNat {op : BitVec 4} (h : w.toNat / 4096 = op.toNat) : fieldOpcode w = op :=
  BitVec.eq_of_toNat_eq ((toNat_fieldOpcode w).trans h)

theorem fieldTrapvect8_of_toNat {v : BitVec 8} (h : w.toNat % 256 = v.toNat) : fieldTrapvect8 w = v :=
  BitVec.eq_of_toNat_eq ((toNat_fieldTrapvect8 w).trans h)

theorem recognisedVector_eq_false_iff {v : BitVec 8} :
    recognisedVector v = false ↔ v.toNat < 0x20 ∨ 0x25 < v.toNat := by
  simp only [recognisedVector, Bool.or_eq_false_iff, beq_eq_false_iff_ne, ← BitVec.toNat_ne_iff_ne, BitVec.toNat_ofNat]
  omega

theorem wellFormed_trap_of_toNat (h : w.toNat % 256 < 0x20 ∨ 0x25 < w.toNat % 256) :
    (Instr.trap (fieldTrapvect8 w)).wellFormed = true := by
  rwa [wellFormed_trap_iff, recognisedVector_eq_false_iff, toNat_fieldTrapvect8]

end

/-- Settles O3: each clause is one row, every field of which the word holds. -/
theorem everyWordDecodesByItsOpcode : Obligations.EveryWordDecodesByItsOpcode := by
  intro w dr sr1 sr2 off9 op
  have hdr : w.extractLsb' 9 3 = dr.bits := bits_eq_ofBits_bits _
  have hsr1 : w.extractLsb' 6 3 = sr1.bits := bits_eq_ofBits_bits _
  have hsr2 : w.extractLsb' 0 3 = sr2.bits := bits_eq_ofBits_bits _
  have hop {n : BitVec 4} (h : op = n.toNat) : w.extractLsb' 12 4 = n := fieldOpcode_of_toNat h
  have hbit {k : Nat} {b : Bool} (h : w.getLsbD k = b) : w.extractLsb' k 1 = BitVec.ofBool b := bit_field_iff.2 h
  have hvect {v : BitVec 8} (h : w.toNat % 256 = v.toNat) : w.extractLsb' 0 8 = v := fieldTrapvect8_of_toNat h
  have row {i : Instr} (h : i.ReadFrom w) : decode w = i := h.decode_eq
  exact ⟨
    fun h => row ⟨rfl, hop h, rfl, rfl⟩,
    fun h hb => row ⟨rfl, hop h, hbit hb, hdr, hsr1, hsr2⟩,
    fun h hb => row ⟨rfl, hop h, hbit hb, hdr, hsr1, rfl⟩,
    fun h => row ⟨rfl, hop h, hdr, rfl⟩,
    fun h => row ⟨rfl, hop h, hdr, rfl⟩,
    fun h hb => row ⟨rfl, hop h, hbit hb, rfl⟩,
    fun h hb => row ⟨rfl, hop h, hbit hb, hsr1⟩,
    fun h hb => row ⟨rfl, hop h, hbit hb, hdr, hsr1, hsr2⟩,
    fun h hb => row ⟨rfl, hop h, hbit hb, hdr, hsr1, rfl⟩,
    fun h => row ⟨rfl, hop h, hdr, hsr1, rfl⟩,
    fun h => row ⟨rfl, hop h, hdr, hsr1, rfl⟩,
    fun h => row ⟨rfl, hop h⟩,
    fun h => row ⟨rfl, hop h, hdr, hsr1⟩,
    fun h => row ⟨rfl, hop h, hdr, rfl⟩,
    fun h => row ⟨rfl, hop h, hdr, rfl⟩,
    fun h => row ⟨rfl, hop h, hsr1⟩,
    fun h => row ⟨rfl, hop h⟩,
    fun h => row ⟨rfl, hop h, hdr, rfl⟩,
    fun h hv => row ⟨rfl, hop h, hvect hv⟩,
    fun h hv => row ⟨rfl, hop h, hvect hv⟩,
    fun h hv => row ⟨rfl, hop h, hvect hv⟩,
    fun h hv => row ⟨rfl, hop h, hvect hv⟩,
    fun h hv => row ⟨rfl, hop h, hvect hv⟩,
    fun h hv => row ⟨rfl, hop h, hvect hv⟩,
    fun h hv => row ⟨wellFormed_trap_of_toNat hv, hop h, rfl⟩⟩

/-- Settles O1: each word evaluates to its instruction. -/
theorem writtenWordsDecode : Obligations.WrittenWordsDecode :=
  ⟨rfl, rfl, rfl, rfl, rfl, rfl, rfl, rfl, rfl, rfl, rfl, rfl, rfl, rfl⟩

end Sys2Proof

/-!
PROOF. Sign extension (30_encoding.md R92), obligation O7.
-/

namespace Sys2Proof.Machine

/-- The pseudocode of R92: the field's bits, or-ed with ones from bit `n` up where the field's top bit is 1. -/
theorem sext_eq_pseudocode {n : Nat} (f : BitVec n) :
    sext f = if f.getLsbD (n - 1) then f.setWidth 16 ||| (0xFFFF#16 <<< n) else f.setWidth 16 := by
  apply BitVec.eq_of_getLsbD_eq
  intro k hk
  rw [getLsbD_sext f hk]
  by_cases hkn : k < n
  · cases f.getLsbD (n - 1) <;> simp [hkn, hk]
  · have hpad : f.getLsbD k = false := BitVec.getLsbD_of_ge f k (Nat.not_lt.1 hkn)
    have hone : (0xFFFF#16)[k - n] = true := BitVec.getElem_allOnes (k - n) (by omega)
    cases f.getLsbD (n - 1) <;> simp [hkn, hk, hpad, hone]

/-- Settles O7: bit by bit from `getLsbD_sext`. -/
theorem signExtensionContract : Obligations.SignExtensionContract := by
  refine ⟨fun n f _ hn => ⟨fun k hk => ?_, fun k hnk hk => ?_, toInt_sext f hn, sext_eq_pseudocode f⟩,
    fun f => BitVec.signExtend_eq f⟩
  · rw [getLsbD_sext f (by omega), if_pos hk]
  · rw [getLsbD_sext f hk, if_neg (by omega)]

end Sys2Proof.Machine

/-!
PROOF. How a step can end (30_encoding.md R103, R104; 44_system.md R201, R208; 60_exceptions.md R220): the status an
instruction leaves, which words stop the VM, and the one way a step answers no state; obligations O38 and O40.
-/

namespace Sys2Proof.Machine

/-! ### The status an instruction leaves -/

/-- The status an instruction stops the VM with, if it stops it (R103, R201). -/
def stopStatus : Instr → Option Status
  | .halt => some .halted
  | .rti => some (.errored .rtiUnsupported)
  | .res => some (.errored .reservedOpcode)
  | .trap v => some (.errored (.unknownTrapVector v))
  | .br _ _ | .addReg _ _ _ | .addImm _ _ _ | .ld _ _ | .st _ _ | .jsr _ | .jsrr _ | .andReg _ _ _ | .andImm _ _ _
  | .ldr _ _ _ | .str _ _ _ | .not _ _ | .ldi _ _ | .sti _ _ | .jmp _ | .lea _ _ | .getc | .out | .puts | .inChar
  | .putsp => none

/-- The status of R103 and R220 for a word, as the statements class words. -/
def wordStatus (w : Word) : Status :=
  match wordError w with
  | some kind => .errored kind
  | none => if wordHalts w then .halted else .running

section
variable {s t : State} {i : Instr}

theorem ioTrap_status {v : BitVec 8} (h : ioTrap v s = .next t) : t.status = s.status := by
  obtain ⟨-, h'⟩ | ⟨st, -, ⟨g, c, st', h'⟩ | h'⟩ := ioTrap_cases v s <;> cases h'.symm.trans h <;> rfl

theorem execTrap_of_not_recognised {v : BitVec 8} (h : recognisedVector v = false) :
    execTrap v s = raiseError (.unknownTrapVector v) s := by
  simp only [recognisedVector, Bool.or_eq_false_iff, beq_eq_false_iff_ne] at h
  simp [execTrap, h]

theorem exec_status (hwf : i.wellFormed = true) (h : exec i s = .next t) :
    t.status = (stopStatus i).getD s.status := by
  cases i with
  | br nzp off9 =>
    simp only [exec, execBr, continueWith_eq_next] at h
    subst h
    split <;> rfl
  | trap v =>
    rw [exec, execTrap_of_not_recognised (wellFormed_trap_iff.1 hwf), raiseError_eq_next] at h
    rw [← h]
    rfl
  | getc | out | puts | inChar | putsp => exact ioTrap_status h
  | addReg | addImm | andReg | andImm | not | ld | ldi | ldr | lea | st | sti | str | jmp | jsr | jsrr | halt | rti
  | res => cases h; rfl

end

/-- Whether a word stops the VM is read from the same fields as its instruction. -/
theorem stopStatus_of_readFrom {w : Word} {i : Instr} (h : i.ReadFrom w) :
    (stopStatus i).getD .running = wordStatus w := by
  obtain ⟨hwf, h⟩ := h
  cases i with
  | rti | res =>
    have hop : fieldOpcode w = _ := h
    simp [stopStatus, wordStatus, wordError, hop]
  | trap v =>
    obtain ⟨hop : fieldOpcode w = _, hv : fieldTrapvect8 w = v⟩ := h
    have hout := recognisedVector_eq_false_iff.1 (wellFormed_trap_iff.1 hwf)
    simp [stopStatus, wordStatus, wordError, hop, hv, hout]
  | halt | getc | out | puts | inChar | putsp =>
    obtain ⟨hop : fieldOpcode w = _, hv : fieldTrapvect8 w = _⟩ := h
    simp [stopStatus, wordStatus, wordError, wordHalts, hop, hv]
  | br | addReg | addImm | andReg | andImm | not | ld | ldi | ldr | lea | st | sti | str | jmp | jsr | jsrr =>
    obtain ⟨hop : fieldOpcode w = _, -⟩ := h
    simp [stopStatus, wordStatus, wordError, wordHalts, hop]

theorem step_status {s t : State} (hr : s.running = true) (h : step s = .next t) :
    t.status = wordStatus (s.memRead s.pc) := by
  obtain ⟨hstopped, -⟩ | ⟨-, u, hexec, -, rfl⟩ := step_cases h
  · simp [hr] at hstopped
  · rw [State.setCount_status, exec_status (wellFormed_decode _) hexec, State.incrementPc_status, s.running_iff.1 hr,
      stopStatus_of_readFrom (readFrom_decode _)]

theorem wordError_of_wordHalts {w : Word} (h : wordHalts w = true) : wordError w = none := by
  simp only [wordHalts, Bool.and_eq_true, beq_iff_eq] at h
  simp [wordError, h]

/-- Settles O38: the status is the word's, and the returned value is the status's. -/
theorem stepOutcomeByWord : Obligations.StepOutcomeByWord := by
  intro s t hr h
  have hstatus := step_status hr h
  generalize s.memRead s.pc = w at hstatus
  simp only [stepValue, hr, if_true, hstatus, wordStatus]
  cases he : wordError w with
  | some kind =>
    have hh : wordHalts w = false := Bool.eq_false_iff.2 fun hh => by simp [wordError_of_wordHalts hh] at he
    simp [hh]
  | none => cases hh : wordHalts w <;> simp

/-! ### The one stop of the model -/

/-- The outcome `o` of `i` in state `s` is a next state, or the fault of a capability that is present and fails. -/
def AnswersOrFails (i : Instr) (s : State) (o : Host.Outcome State Fault Refusal) : Prop :=
  (∃ t, o = .next t) ∨
    ∃ st v, s.io = .present st ∧ ioTrapVector i = some v ∧ o = .fault (.ioCapabilityFailed v)

section
variable {i : Instr} {s : State}

theorem AnswersOrFails.ioTrap {v : BitVec 8} (hv : ioTrapVector i = some v) : AnswersOrFails i s (ioTrap v s) := by
  obtain ⟨-, h⟩ | ⟨st, hio, ⟨g, c, st', h⟩ | h⟩ := ioTrap_cases v s
  · exact .inl ⟨_, h⟩
  · exact .inl ⟨_, h⟩
  · exact .inr ⟨st, v, hio, hv, h⟩

theorem exec_answersOrFails (i : Instr) (s : State) : AnswersOrFails i s (exec i s) := by
  cases i with
  | getc | out | puts | inChar | putsp => exact .ioTrap rfl
  | trap v =>
    simp only [exec, execTrap]
    split_ifs with hhalt hio
    · exact .inl ⟨_, rfl⟩
    · exact .ioTrap (ioTrapVector_trap hio)
    · exact .inl ⟨_, rfl⟩
  | br | addReg | addImm | andReg | andImm | not | ld | ldi | ldr | lea | st | sti | str | jmp | jsr | jsrr | halt | rti
  | res => exact .inl ⟨_, rfl⟩

end

theorem step_answers_or_fails (s : State) :
    (∃ t, step s = .next t) ∨
    ∃ st v, s.running = true ∧ s.io = .present st ∧ ioTrapVector (decode (s.memRead s.pc)) = some v ∧
      step s = .fault (.ioCapabilityFailed v) := by
  cases hr : s.running with
  | false => exact .inl ⟨s, step_stopped hr⟩
  | true =>
    rw [step_running hr]
    obtain ⟨u, hu⟩ | ⟨st, v, hio, hv, hfault⟩ := exec_answersOrFails (decode (s.memRead s.pc)) s.incrementPc
    · exact .inl ⟨_, congrArg countStep hu⟩
    · exact .inr ⟨st, v, rfl, hio, hv, congrArg countStep hfault⟩

/-- Settles O40: the only outcome without a next state needs a capability. -/
theorem onlyAFailingConsoleStopsTheModel : Obligations.OnlyAFailingConsoleStopsTheModel := by
  refine ⟨fun s hno => ?_, step_answers_or_fails⟩
  obtain h | ⟨st, v, -, hio, -⟩ := step_answers_or_fails s
  · exact h
  · simp [hno] at hio

end Sys2Proof.Machine

/-!
PROOF. The conditional branch (40_branch.md R130, R131): BR taken and not taken, and the zero word; obligations O22 and
O47.
-/

namespace Sys2Proof.Machine

theorem State.jumpsTo_setPc (s : State) (target : Word) : JumpsTo s target (s.setPc target) :=
  ⟨rfl, fun _ => rfl, rfl, fun _ => rfl, rfl, rfl, rfl, rfl, rfl⟩

section
variable {s : State} {nzp : BitVec 3} {off9 : BitVec 9}

theorem exec_br_taken (h : branchTaken nzp s.cond = true) :
    exec (.br nzp off9) s = .next (s.setPc (addrPC9 s off9)) := by
  simp [exec, execBr, h]

theorem exec_br_not_taken (h : branchTaken nzp s.cond = false) : exec (.br nzp off9) s = .next s := by
  simp [exec, execBr, h]

/-- R131 (a): an empty NZP field has no bit in common with COND. -/
theorem branchTaken_zero (cond : Word) : branchTaken 0b000#3 cond = false := by
  simp [branchTaken]

/-- The step of a running VM at a BR with an empty NZP field. -/
theorem step_of_br_zero (hr : s.running = true) (hbr : decode (s.memRead s.pc) = .br 0b000#3 off9) :
    step s = .next (s.incrementPc.setCount (s.count + 1)) := by
  rw [step_running hr, hbr, exec_br_not_taken (branchTaken_zero s.incrementPc.cond)]
  rfl

end

/-- Settles O22: `branchTaken` says which case holds; a branch not taken leaves the state, whose PC is PC. -/
theorem branchResult : Obligations.BranchResult := by
  intro nzp off9 s
  rw [← branchTaken_iff, Bool.not_eq_true]
  constructor
  · intro htaken
    have htarget : addrPC9 s off9 = BitVec.ofInt 16 ((s.pc.toNat : Int) + off9.toInt) := add_sext s.pc off9 (by decide)
    exact ⟨_, exec_br_taken htaken, htarget ▸ s.jumpsTo_setPc _⟩
  · intro hnot
    exact ⟨s, exec_br_not_taken hnot, s.jumpsTo_setPc s.pc⟩

/-- Settles O47: the word 0x0000 is a BR with an empty NZP field. -/
theorem zeroWordIsANoOp : Obligations.ZeroWordIsANoOp := by
  intro s hr hzero
  have hbr : decode (s.memRead s.pc) = .br 0b000#3 0x000#9 := congrArg decode hzero
  exact ⟨_, step_of_br_zero hr hbr, rfl, rfl, s.running_iff.1 hr, fun _ => rfl, rfl, fun _ => rfl, rfl, rfl, rfl⟩

end Sys2Proof.Machine

/-!
PROOF. ADD, AND and NOT (41_operate.md R140 to R145): the frame of `writeResult`, which ends each of them, the word each
computes, and obligations O16, O17 and O18.
-/

namespace Sys2Proof.Machine

/-! ### What an instruction that ends in `writeResult` answers (10_state.md R43) -/

theorem State.writesValue_writeResult (s : State) (dr : Reg) (v : Word) : WritesValue s dr v (s.writeResult dr v) :=
  ⟨fun q => s.reg_writeResult dr q v, flagWord_signFlag_eq_signCond v, rfl, fun _ => rfl, rfl, rfl, rfl, rfl, rfl⟩

section
variable {i : Instr} {s : State} {dr : Reg} {v : Word}

theorem answers_writesValue (h : exec i s = .next (s.writeResult dr v)) : Answers (exec i s) (WritesValue s dr v) :=
  ⟨_, h, s.writesValue_writeResult dr v⟩

/-- The form AND's statement has: the result is given by its bits, not as a word. -/
theorem answers_writesBits {bit : Nat → Bool} (h : exec i s = .next (s.writeResult dr v))
    (hbit : ∀ k, v.getLsbD k = bit k) :
    Answers (exec i s) fun t => WritesValue s dr (t.reg dr) t ∧ ∀ k, (t.reg dr).getLsbD k = bit k := by
  have hdr : (s.writeResult dr v).reg dr = v := by simp
  refine ⟨_, h, ?_, ?_⟩
  · rw [hdr]
    exact s.writesValue_writeResult dr v
  · rw [hdr]
    exact hbit

end

/-! ### The words computed -/

/-- `add_sext` with the base read as signed, as ADD reads its first source (R141, R145). -/
theorem add_sext_eq_ofInt {n : Nat} (a : Word) (f : BitVec n) (h : n ≤ 16) :
    a + sext f = BitVec.ofInt 16 (a.toInt + f.toInt) := by
  rw [← toInt_sext f h, BitVec.ofInt_add, BitVec.ofInt_toInt, BitVec.ofInt_toInt]

/-- A bit of a word AND a sign-extended field: above the field's top bit, that bit takes part. -/
theorem getLsbD_and_sext {n : Nat} (a : Word) (f : BitVec n) (k : Nat) :
    (a &&& sext f).getLsbD k = (a.getLsbD k && f.getLsbD (min k (n - 1))) := by
  rw [BitVec.getLsbD_and]
  by_cases hk : k < 16
  · rw [getLsbD_sext f hk]
    by_cases hkn : k < n
    · rw [if_pos hkn, Nat.min_eq_left (by omega)]
    · rw [if_neg hkn, Nat.min_eq_right (by omega)]
  · rw [BitVec.getLsbD_of_ge a k (Nat.not_lt.1 hk), Bool.false_and, Bool.false_and]

/-- NOT's complement (R144) as arithmetic. -/
theorem not_eq_ofNat (a : Word) : ~~~a = BitVec.ofNat 16 (0xFFFF - a.toNat) := by
  apply BitVec.eq_of_toNat_eq
  rw [BitVec.toNat_not, BitVec.toNat_ofNat]
  omega

/-! ### The obligations -/

/-- Settles O16: both modes write the word sum, which is the sum of the values reduced modulo 2^16. -/
theorem addResults : Obligations.AddResults := by
  intro dr sr1 s
  constructor
  · intro sr2
    rw [← BitVec.add_def]
    exact answers_writesValue rfl
  · intro imm5
    rw [← add_sext_eq_ofInt _ imm5 (by decide)]
    exact answers_writesValue rfl

/-- Settles O17: both modes write the bitwise AND; in the immediate mode its bits are those of `getLsbD_and_sext`. -/
theorem andResults : Obligations.AndResults := by
  intro dr sr1 s
  constructor
  · intro sr2
    exact answers_writesBits rfl fun _ => BitVec.getLsbD_and
  · intro imm5
    exact answers_writesBits rfl (getLsbD_and_sext (s.reg sr1) imm5)

/-- Settles O18: the complement that NOT writes is 0xFFFF minus the source. -/
theorem notResult : Obligations.NotResult := by
  intro dr sr s
  rw [← not_eq_ofNat]
  exact answers_writesValue rfl

end Sys2Proof.Machine

/-!
PROOF. Loads, LEA and stores (42_load_store.md R160 to R167): a load and LEA end in `writeResult`, a store in `memWrite`,
whose frame stands here; obligations O19, O20 and O21.
-/

namespace Sys2Proof.Machine

/-- Settles O19: each load writes the word read at its address; all addresses are those of the state before. -/
theorem loadResults : Obligations.LoadResults := by
  intro dr s
  refine ⟨fun off9 => ?ld, fun off9 => ?ldi, fun baseR off6 => ?ldr⟩
  case ld | ldi | ldr => exact answers_writesValue rfl

/-- Settles O20: the word sum that LEA writes is the exact sum reduced modulo 2^16. -/
theorem leaResult : Obligations.LeaResult := by
  intro dr off9 s
  rw [← add_sext s.pc off9 (by decide)]
  exact answers_writesValue rfl

theorem State.storesWord_memWrite (s : State) (a v : Word) : StoresWord s a v (s.memWrite a v) :=
  ⟨fun b => s.memRead_memWrite a b v, fun _ => rfl, rfl, rfl, rfl, rfl, rfl, rfl, rfl⟩

theorem answers_storesWord {i : Instr} {s : State} {a : Word} {sr : Reg} (h : storeTarget s i = some (a, sr)) :
    Answers (exec i s) (StoresWord s a (s.reg sr)) :=
  ⟨_, exec_of_storeTarget h, s.storesWord_memWrite a (s.reg sr)⟩

/-- Settles O21: the address stated for each store is its `storeTarget`. -/
theorem storeResults : Obligations.StoreResults := by
  intro sr s
  refine ⟨fun off9 => ?st, fun off9 => ?sti, fun baseR off6 => ?str⟩
  case st | sti | str => exact answers_storesWord rfl

end Sys2Proof.Machine

/-!
PROOF. Jumps and subroutine calls (43_jump.md R190 to R192): JMP sets PC, JSR and JSRR link through R7 first; obligations
O23 and O24.
-/

namespace Sys2Proof.Machine

/-- Settles O23: JMP ends in `setPc`. -/
theorem jmpResult : Obligations.JmpResult :=
  fun baseR s => ⟨_, rfl, s.jumpsTo_setPc (s.reg baseR)⟩

/-! ### What a call answers -/

theorem State.callsTo_setReg_setPc (s : State) (target : Word) :
    CallsTo s target ((s.setReg .r7 s.pc).setPc target) :=
  ⟨rfl, fun q => s.reg_setReg .r7 q s.pc, rfl, fun _ => rfl, rfl, rfl, rfl, rfl, rfl⟩

section
variable {s : State} {baseR : Reg}

theorem answers_callsTo {i : Instr} {target : Word} (h : exec i s = .next ((s.setReg .r7 s.pc).setPc target)) :
    Answers (exec i s) (CallsTo s target) :=
  ⟨_, h, s.callsTo_setReg_setPc target⟩

/-- D7: writing R7 first makes no difference for another base, nor where the base is read before it. -/
theorem exec_jsrr_of_base_unaffected (h : baseR ≠ .r7 ∨ s.config.jsrrReadsBaseFirst = true) :
    exec (.jsrr baseR) s = .next ((s.setReg .r7 s.pc).setPc (s.reg baseR)) := by
  obtain hbase | hfirst := h
  · simp [exec, execJsrr, hbase]
  · simp [exec, execJsrr, hfirst]

/-- D7: with R7 written first, `JSRR R7` reads back the link. -/
theorem exec_jsrr_r7_of_link_first (h : s.config.jsrrReadsBaseFirst = false) :
    exec (.jsrr .r7) s = .next ((s.setReg .r7 s.pc).setPc s.pc) := by
  simp [exec, execJsrr, h]

end

/-- Settles O24: all three link and jump; only the word JSRR jumps to depends on the read order. -/
theorem callResults : Obligations.CallResults := by
  intro s
  refine ⟨fun off11 => ?jsr, fun baseR hbase => ?jsrr, fun hlink => ?jsrr_r7⟩
  case jsr =>
    rw [← add_sext s.pc off11 (by decide)]
    exact answers_callsTo rfl
  case jsrr => exact answers_callsTo (exec_jsrr_of_base_unaffected hbase)
  case jsrr_r7 => exact answers_callsTo (exec_jsrr_r7_of_link_first hlink)

end Sys2Proof.Machine

/-!
PROOF. TRAP, RTI and RES (44_system.md R200 to R211): the console traps are one call of `ioTrap`, the others only stop
the VM, in `exec` and in a whole step; obligations O25, O26, O27, O28, O29, O36 and O37.
-/

namespace Sys2Proof.Machine

/-! ### Console traps (R202 to R207) -/

theorem ioVector_iff {v : BitVec 8} :
    ioVector v = true ↔ v = 0x20#8 ∨ v = 0x21#8 ∨ v = 0x22#8 ∨ v = 0x23#8 ∨ v = 0x24#8 := by
  simp only [ioVector, decide_eq_true_iff, ← BitVec.toNat_inj, BitVec.toNat_ofNat]
  omega

section
variable {i j : Instr} {s : State} {v : BitVec 8}

theorem execTrap_of_ioVector (h : ioVector v = true) : execTrap v s = ioTrap v s := by
  have hne : v ≠ 0x25#8 := by
    rintro rfl
    cases h
  rw [execTrap, if_neg hne, if_pos (ioVector_iff.1 h)]

/-- Every console trap, by its own row or as the general TRAP, is the console call with its vector. -/
theorem exec_of_ioTrapVector (h : ioTrapVector i = some v) : exec i s = ioTrap v s := by
  cases i with
  | getc | out | puts | inChar | putsp => cases h; rfl
  | trap w =>
    simp only [ioTrapVector] at h
    split at h
    next hw => cases h; exact execTrap_of_ioVector hw
    next => cases h
  | _ => cases h

theorem exec_eq_of_ioTrapVector_eq (hi : ioTrapVector i = some v) (hj : ioTrapVector j = some v) :
    exec i s = exec j s :=
  (exec_of_ioTrapVector hi).trans (exec_of_ioTrapVector hj).symm

end

/-- Settles O26: each console trap is `ioTrap` with its vector, which continues without a capability. -/
theorem consoleTrapsWithoutCapabilityAreNoOps : Obligations.ConsoleTrapsWithoutCapabilityAreNoOps := by
  intro s hio i hi
  obtain ⟨v, hv⟩ := Option.ne_none_iff_exists'.1 hi
  exact (exec_of_ioTrapVector hv).trans (ioTrap_absent hio v)

/-- Settles O27: the free value is the capability's answer to `ioTrap`, which completes or fails by it. -/
theorem consoleTrapsWithCapabilityFollowTheFreeValue : Obligations.ConsoleTrapsWithCapabilityFollowTheFreeValue := by
  intro s st hio i v hv
  rw [exec_of_ioTrapVector hv]
  split
  next g c st' hr =>
    refine ⟨_, ioTrap_completes hio hr, s.reg_ioCompleted g c st', ?_, rfl, fun _ => rfl, rfl, rfl, rfl, rfl, rfl⟩
    cases c <;> rfl
  next hr => exact ioTrap_fails hio hr

/-- Settles O29: the first clause is the first case of R200's match; in each other both sides are the console call with
one vector. -/
theorem trapByVectorIsItsRow : Obligations.TrapByVectorIsItsRow :=
  fun _ => ⟨rfl, exec_eq_of_ioTrapVector_eq rfl rfl, exec_eq_of_ioTrapVector_eq rfl rfl,
    exec_eq_of_ioTrapVector_eq rfl rfl, exec_eq_of_ioTrapVector_eq rfl rfl, exec_eq_of_ioTrapVector_eq rfl rfl⟩

/-! ### Instructions that only stop the VM (R201, R208, R210, R211) -/

theorem State.onlyStatusBecomes_setStatus (s : State) (st : Status) : OnlyStatusBecomes st s (s.setStatus st) :=
  ⟨rfl, fun _ => rfl, rfl, rfl, fun _ => rfl, rfl, rfl, rfl, rfl⟩

section
variable {i : Instr} {s : State} {st : Status} {v : BitVec 8}

theorem answers_onlyStatusBecomes (h : exec i s = .next (s.setStatus st)) :
    Answers (exec i s) (OnlyStatusBecomes st s) :=
  ⟨_, h, s.onlyStatusBecomes_setStatus st⟩

theorem exec_trap_of_unknown (h : v.toNat < 0x20 ∨ 0x25 < v.toNat) :
    exec (.trap v) s = .next (s.setStatus (.errored (.unknownTrapVector v))) :=
  execTrap_of_not_recognised (recognisedVector_eq_false_iff.2 h)

end

/-- Settles O25: HALT ends in `setStatus`. -/
theorem haltOnlyStops : Obligations.HaltOnlyStops :=
  fun _ => answers_onlyStatusBecomes rfl

/-- Settles O28: all three end in `setStatus` with their error. -/
theorem erroringInstructionsOnlyStop : Obligations.ErroringInstructionsOnlyStop :=
  ⟨fun _ _ hv => answers_onlyStatusBecomes (exec_trap_of_unknown hv), fun _ => answers_onlyStatusBecomes rfl,
    fun _ => answers_onlyStatusBecomes rfl⟩

/-! ### The words of opcode 15 that stop the VM -/

section
variable {w : Word} {v : BitVec 8}

theorem decode_eq_halt (hop : w.toNat / 4096 = 15) (hv : w.toNat % 256 = 0x25) : decode w = .halt :=
  Instr.ReadFrom.decode_eq ⟨rfl, fieldOpcode_of_toNat (op := 0xF#4) hop, fieldTrapvect8_of_toNat (v := 0x25#8) hv⟩

theorem decode_eq_trap (hop : w.toNat / 4096 = 15) (hv : w.toNat % 256 = v.toNat)
    (hout : v.toNat < 0x20 ∨ 0x25 < v.toNat) : decode w = .trap v :=
  Instr.ReadFrom.decode_eq ⟨wellFormed_trap_iff.2 (recognisedVector_eq_false_iff.2 hout),
    fieldOpcode_of_toNat (op := 0xF#4) hop, fieldTrapvect8_of_toNat hv⟩

end

/-! ### The whole step -/

section
variable {s t : State}

theorem stepValue_stopped (h : s.running = false) : stepValue s t = .halted := by
  simp [stepValue, h]

theorem stepValue_of_halted (h : t.status = .halted) : stepValue s t = .halted := by
  simp [stepValue, h]

theorem stepValue_of_errored {k : ErrorKind} (hr : s.running = true) (h : t.status = .errored k) :
    stepValue s t = .error k := by
  simp [stepValue, hr, h]

/-- The step of a running VM at an instruction that only stops it with the status `st`. -/
theorem step_of_exec_setStatus {i : Instr} {st : Status} (hr : s.running = true) (hi : decode (s.memRead s.pc) = i)
    (h : exec i s.incrementPc = .next (s.incrementPc.setStatus st)) :
    step s = .next ((s.incrementPc.setStatus st).setCount (s.count + 1)) := by
  rw [step_running hr, hi, h]
  rfl

end

/-- Settles O36: the step ends in `setStatus` with PC advanced and the count; the VM it leaves is not running. -/
theorem haltStepStopsTheVm : Obligations.HaltStepStopsTheVm := by
  intro s hr hop hv
  exact ⟨_, step_of_exec_setStatus hr (decode_eq_halt hop hv) rfl, rfl, rfl, fun _ => rfl, rfl, fun _ => rfl, rfl,
    rfl, stepValue_of_halted rfl, step_stopped rfl, stepValue_stopped rfl⟩

/-- Settles O37: the word decodes to the general TRAP, whose step ends in `setStatus` with the error. -/
theorem unknownTrapVectorStepErrors : Obligations.UnknownTrapVectorStepErrors := by
  intro s v hr hop hv hrange
  have hout : v.toNat < 0x20 ∨ 0x25 < v.toNat := by omega
  exact ⟨_, step_of_exec_setStatus hr (decode_eq_trap hop hv.symm hout) (exec_trap_of_unknown hout),
    stepValue_of_errored hr rfl, rfl, fun _ => rfl, rfl, fun _ => rfl⟩

end Sys2Proof.Machine

/-!
PROOF. Precise errors (60_exceptions.md R222, R226; 92_eei_decisions.md D10, D12): an effect that changes the status
changes nothing else; obligation O39.
-/

namespace Sys2Proof.Machine

/-- Setting the status is the whole effect of whatever changes it, so there is no partial effect to undo. -/
theorem Effect.eq_setStatus {s t : State} (h : Effect s t) (hne : t.status ≠ s.status) : t = s.setStatus t.status := by
  cases h with
  | stop => rfl
  | same | jump | call | result | store | console => exact absurd rfl hne

/-- Settles O39: the instruction's effect turned a running VM into an errored one, so it only set the status of the
state with PC advanced, and then the step was counted. -/
theorem errorStepsLeaveNoPartialEffect : Obligations.ErrorStepsLeaveNoPartialEffect := by
  intro s t k hr h hk
  obtain ⟨hstopped, -⟩ | ⟨-, u, -, hu, rfl⟩ := step_cases h
  · simp [hr] at hstopped
  · rw [State.setCount_status] at hk
    have hne : u.status ≠ s.incrementPc.status := by simp [hk, s.running_iff.1 hr]
    rw [hu.eq_setStatus hne]
    exact ⟨fun _ => rfl, rfl, fun _ => rfl, rfl, rfl, rfl, rfl, rfl⟩

end Sys2Proof.Machine

/-!
PROOF. The host's operations that run no instruction (70_reset_and_hazards.md R250 to R254, R265, R272): what
`initializeVm`, `reset()`, `halt()` and the setup register write answer; obligations O49, O50, O51, O52 and O53.
-/

namespace Sys2Proof.Machine

/-! ### initializeVm -/

section
variable {s : State} {start : Word} {words : List Word}

theorem State.initializeVm_ok (h : start.toNat + words.length ≤ 65536) :
    s.initializeVm start words = .ok (s.startProgram start words) :=
  State.initializeVm_eq_ok.2 ⟨h, rfl⟩

theorem State.initializeVm_overflow (h : 65536 < start.toNat + words.length) :
    s.initializeVm start words = .error (.loadOverflow start words.length) :=
  if_pos h

/-- In a program that fits, the address of word `k` does not wrap. -/
theorem State.memRead_startProgram_inside (hfit : start.toNat + words.length ≤ 65536) {k : Nat}
    (hk : k < words.length) : (s.startProgram start words).memRead (start + BitVec.ofNat 16 k) = words[k] := by
  have haddr : (start + BitVec.ofNat 16 k).toNat = start.toNat + k := by
    rw [BitVec.toNat_add, BitVec.toNat_ofNat]
    omega
  rw [State.memRead, haddr]
  exact s.mem.read_writeWords_inside hk

theorem State.memRead_startProgram_outside {a : Word}
    (ha : a.toNat < start.toNat ∨ start.toNat + words.length ≤ a.toNat) :
    (s.startProgram start words).memRead a = s.memRead a :=
  s.mem.read_writeWords_outside ha

end

/-- Settles O50: a program that fits is started by `startProgram`, whose memory is the one `writeWords` leaves. -/
theorem initializeStartsTheProgram : Obligations.InitializeStartsTheProgram := by
  intro s start words hfit
  have hcond : ∀ c, s.config.initCond = c → (s.startProgram start words).cond = initCondWord c :=
    fun _ hc => congrArg initCondWord hc
  exact ⟨_, State.initializeVm_ok hfit, rfl, fun _ hk => State.memRead_startProgram_inside hfit hk,
    fun _ ha => State.memRead_startProgram_outside ha, hcond .zro, hcond .zero, rfl, rfl, rfl, fun _ => rfl, rfl, rfl⟩

/-- Settles O51: a program that does not overflow fits, and then `initializeVm` succeeds. -/
theorem initializeRejectsOverflow : Obligations.InitializeRejectsOverflow := by
  refine fun s start words => ⟨State.initializeVm_overflow, fun ⟨k, hk⟩ => Nat.lt_of_not_le fun hfit => ?_⟩
  rw [State.initializeVm_ok hfit] at hk
  cases hk

/-! ### reset -/

section
variable (s : State)

@[simp] theorem State.resetVm_reg (r : Reg) : s.resetVm.reg r = 0x0000#16 := Gprs.get_zero r
@[simp] theorem State.resetVm_memRead (a : Word) : s.resetVm.memRead a = 0x0000#16 := rfl
@[simp] theorem State.resetVm_status : s.resetVm.status = .uninitialized := rfl

/-- The state after construction is one that `reset()` leaves. -/
theorem State.resetVm_reset : State.reset.resetVm = State.reset := rfl

end

/-- Settles O49: construction and `reset()` leave the same registers, memory and controller. -/
theorem resetZeroesEverything : Obligations.ResetZeroesEverything := by
  intro t ht
  obtain ⟨s, rfl⟩ : ∃ s : State, t = s.resetVm := ht.elim (fun h => ⟨State.reset, h.trans State.resetVm_reset.symm⟩) id
  exact ⟨s.resetVm_reg, rfl, rfl, s.resetVm_memRead, rfl, s.resetVm_status, rfl⟩

/-! ### halt -/

section
variable {s : State}

theorem State.running_eq_false_iff : s.running = false ↔ s.status ≠ .running := by
  rw [← Bool.not_eq_true, s.running_iff]

theorem State.haltVm_of_running (h : s.running = true) : s.haltVm = s.setStatus .halted := if_pos h

theorem State.haltVm_of_stopped (h : s.running = false) : s.haltVm = s := if_neg (by simp [h])

theorem State.running_haltVm (s : State) : s.haltVm.running = false := by
  cases hr : s.running with
  | true => rw [State.haltVm_of_running hr, State.setStatus_halted_running]
  | false => rw [State.haltVm_of_stopped hr, hr]

end

/-- Settles O52: `halt()` is `setStatus` or nothing, and either way it leaves a VM that is not running. -/
theorem externalHaltOnlyStops : Obligations.ExternalHaltOnlyStops := by
  refine fun s => ⟨fun hr => ?_, State.haltVm_of_stopped, step_stopped s.running_haltVm⟩
  rw [State.haltVm_of_running hr]
  exact s.onlyStatusBecomes_setStatus .halted

/-! ### set_register -/

/-- What R272 lets the host write: any value to R0 to R7 and PC, a flag value to COND. -/
abbrev RegId.AllowsWrite (id : RegId) (v : Word) : Prop := id = .cond → IsFlagValue v

theorem isFlagValue_iff {v : Word} : IsFlagValue v ↔ v = 0x0001#16 ∨ v = 0x0002#16 ∨ v = 0x0004#16 := by
  simp only [IsFlagValue, flagNEG, flagZRO, flagPOS]
  tauto

theorem RegId.number_eq_nine_iff {id : RegId} : id.number = 9 ↔ id = .cond := by
  refine ⟨fun h => ?_, fun h => h ▸ rfl⟩
  have hid := id.ofNat_number
  rw [h] at hid
  cases hid
  rfl

section
variable {s t : State} {id : RegId} {n : Nat} {v : Word}

theorem State.setRegister_of_allowsWrite (h : id.AllowsWrite v) :
    s.setRegister id.number v = .ok (s.writeId id v) := by
  cases id with
  | gpr | pc => simp [State.setRegister, State.writeId]
  | cond => simp [State.setRegister, State.writeId, h rfl]

theorem State.setRegister_of_not_allowsWrite (h : ¬ id.AllowsWrite v) :
    s.setRegister id.number v = .error (.invalidRegisterWrite id.number v) := by
  obtain ⟨rfl, hv⟩ := Classical.not_imp.1 h
  simp [State.setRegister, hv]

theorem State.setRegister_of_ge (h : 10 ≤ n) : s.setRegister n v = .error (.invalidRegisterWrite n v) := by
  simp [State.setRegister, RegId.ofNat_eq_none h]

/-- A setup write that succeeds is the register file's write to the identifier with that number. -/
theorem State.eq_writeId_of_setRegister (h : s.setRegister n v = .ok t) : ∃ id, t = s.writeId id v := by
  obtain hn | hn := Nat.lt_or_ge n 10
  · obtain ⟨id, rfl⟩ := RegId.exists_number_eq (Nat.le_of_lt_succ hn)
    by_cases hv : id.AllowsWrite v
    · rw [State.setRegister_of_allowsWrite hv] at h
      cases h
      exact ⟨id, rfl⟩
    · rw [State.setRegister_of_not_allowsWrite hv] at h
      cases h
  · rw [State.setRegister_of_ge hn] at h
    cases h

end

/-- Settles O53: the numbers and values of the first clause are the allowed writes, those of the second are a COND value
that is no flag and the numbers without an identifier. -/
theorem setRegisterKeepsCondLegal : Obligations.SetRegisterKeepsCondLegal := by
  intro s n v
  rw [← isFlagValue_iff]
  constructor
  · intro h
    obtain ⟨id, rfl⟩ := RegId.exists_number_eq (n := n) (by omega)
    have hallows : id.AllowsWrite v := by
      intro hid
      obtain hle | ⟨-, hv⟩ := h
      · rw [RegId.number_eq_nine_iff.2 hid] at hle
        omega
      · exact hv
    exact ⟨s.writeId id v, State.setRegister_of_allowsWrite hallows, by simp,
      fun _ hne => s.readRegister_writeId_of_ne id v hne, s.sameMem_writeId id v, s.sameController_writeId id v⟩
  · rintro (hge | ⟨rfl, h1, h2, h4⟩)
    · exact State.setRegister_of_ge hge
    · have hv : ¬ IsFlagValue v := by simp [isFlagValue_iff, h1, h2, h4]
      exact State.setRegister_of_not_allowsWrite (id := .cond) fun hallows => hv (hallows rfl)

end Sys2Proof.Machine

/-!
PROOF. The controller's step (70_reset_and_hazards.md R260 to R262): the decoded instruction and its count, the no-op on
a stopped VM, the status a step leaves with the value it returns, and the transitions of R262; obligations O34, O35 and
O54.
-/

namespace Sys2Proof.Machine

/-- Settles O34: `step` is `countStep` of the instruction's outcome. -/
theorem stepRunsTheDecodedInstruction : Obligations.StepRunsTheDecodedInstruction := by
  intro s i hr hi _
  rw [step_running hr, hi]
  rfl

/-- Settles O35: both `step` and its value ask first whether the VM is running. -/
theorem stepOnStoppedVmIsANoOp : Obligations.StepOnStoppedVmIsANoOp :=
  fun _ hr => ⟨step_stopped hr, stepValue_stopped hr⟩

/-! ### Status and value after a step -/

/-- The statuses in which a step of a running VM can leave it, each with the value that step returns (R260, R262). -/
inductive Reports : Status → StepValue → Prop where
  | running : Reports .running .continued
  | halted : Reports .halted .halted
  | errored (k : ErrorKind) : Reports (.errored k) (.error k)

section
variable {s t : State} {st : Status} {v : StepValue}

/-- `Reports`, as the statements write it. -/
theorem Reports.eq_cases (h : Reports st v) :
    (st = .running ∧ v = .continued) ∨ (st = .halted ∧ v = .halted) ∨ ∃ k, st = .errored k ∧ v = .error k := by
  cases h with
  | running => exact .inl ⟨rfl, rfl⟩
  | halted => exact .inr (.inl ⟨rfl, rfl⟩)
  | errored k => exact .inr (.inr ⟨k, rfl, rfl⟩)

theorem Reports.value_of_running (h : Reports t.status v) (ht : t.running = true) : v = .continued := by
  rw [t.running_iff.1 ht] at h
  cases h
  rfl

theorem stepValue_of_running (hr : s.running = true) (h : t.status = .running) : stepValue s t = .continued := by
  simp [stepValue, hr, h]

theorem Effect.status_kept_or_stopped (h : Effect s t) :
    t.status = s.status ∨ t.status = .halted ∨ ∃ k, t.status = .errored k := by
  cases h with
  | stop st hst => exact .inr hst
  | same | jump | call | result | store | console => exact .inl rfl

/-- The value a step of a running VM returns is that of the status it leaves. -/
theorem step_reports (hr : s.running = true) (h : step s = .next t) : Reports t.status (stepValue s t) := by
  obtain ⟨hstopped, -⟩ | ⟨-, u, -, hu, rfl⟩ := step_cases h
  · simp [hr] at hstopped
  · have hstatus := hu.status_kept_or_stopped
    rw [State.incrementPc_status, s.running_iff.1 hr, ← State.setCount_status u (u.count + 1)] at hstatus
    obtain hrun | hhalt | ⟨k, herr⟩ := hstatus
    · rw [hrun, stepValue_of_running hr hrun]
      exact .running
    · rw [hhalt, stepValue_of_halted hhalt]
      exact .halted
    · rw [herr, stepValue_of_errored hr herr]
      exact .errored k

theorem step_count_of_running (hr : s.running = true) (h : step s = .next t) : t.count = s.count + 1 := by
  rw [counterCountsFetchingSteps s t h, if_pos hr]

end

/-- Settles O54: each operation by what it answers; a step of a running VM by the value it reports. -/
theorem statusTransitionsAreExactlyTheseOnes : Obligations.StatusTransitionsAreExactlyTheseOnes := by
  refine ⟨?start_program, ?step_stopped, fun s t h hs => (step_reports (s.running_iff.2 hs) h).eq_cases, ?halt_running,
    ?halt_stopped, State.resetVm_status, ?set_register, State.running_iff⟩
  case start_program =>
    intro s t start words h
    obtain ⟨-, rfl⟩ := State.initializeVm_eq_ok.1 h
    exact State.startProgram_status s start words
  case step_stopped =>
    intro s t h hs
    rw [step_stopped (State.running_eq_false_iff.2 hs)] at h
    cases h
    rfl
  case halt_running =>
    intro s hs
    rw [State.haltVm_of_running (s.running_iff.2 hs), State.setStatus_status]
  case halt_stopped =>
    intro s hs
    rw [State.haltVm_of_stopped (State.running_eq_false_iff.2 hs)]
  case set_register =>
    intro s t n v h
    obtain ⟨id, rfl⟩ := State.eq_writeId_of_setRegister h
    obtain ⟨hstatus, -⟩ := s.sameController_writeId id v
    exact hstatus

end Sys2Proof.Machine

/-!
PROOF. `run_for(n)` and `run()` (70_reset_and_hazards.md R263, R264): one turn of the loop, the value and the counter
where it ends, and that more fuel changes nothing once the VM has stopped; obligations O55 and O56.
-/

namespace Sys2Proof.Machine

/-! ### The loop -/

section
variable {n : Nat} {last v : StepValue} {s t : State}

theorem runForLoop_stopped (n : Nat) (last : StepValue) (h : s.running = false) :
    runForLoop n last s = .next (s, last) := by
  cases n with
  | zero => rfl
  | succ n => simp [runForLoop, h]

/-- One turn of the loop that answers: it ends on a stopped VM, or makes a step and goes on. -/
theorem runForLoop_succ_cases (h : runForLoop (n + 1) last s = .next (t, v)) :
    (s.running = false ∧ t = s ∧ v = last) ∨
    (s.running = true ∧ ∃ u, step s = .next u ∧ runForLoop n (stepValue s u) u = .next (t, v)) := by
  cases hr : s.running with
  | false =>
    rw [runForLoop_stopped _ _ hr] at h
    cases h
    exact .inl ⟨rfl, rfl, rfl⟩
  | true =>
    rw [runForLoop, if_pos hr] at h
    split at h
    next u hu => exact .inr ⟨rfl, u, hu, h⟩
    next => cases h
    next => cases h

theorem runForLoop_succ_of_step {u : State} (hr : s.running = true) (hu : step s = .next u) :
    runForLoop (n + 1) last s = runForLoop n (stepValue s u) u := by
  rw [runForLoop, if_pos hr, hu]

/-- If the loop begins with the value of its state's status, it ends so. -/
theorem runForLoop_reports (hs : Reports s.status last) (h : runForLoop n last s = .next (t, v)) :
    Reports t.status v := by
  induction n generalizing last s with
  | zero =>
    cases h
    exact hs
  | succ n ih =>
    obtain ⟨-, rfl, rfl⟩ | ⟨hr, u, hu, hloop⟩ := runForLoop_succ_cases h
    · exact hs
    · exact ih (step_reports hr hu) hloop

/-- The loop makes at most `n` steps, and stops short of `n` only on a VM that is not running. -/
theorem runForLoop_count (h : runForLoop n last s = .next (t, v)) :
    s.count ≤ t.count ∧ t.count ≤ s.count + n ∧ (t.running = true → t.count = s.count + n) := by
  induction n generalizing last s with
  | zero =>
    cases h
    exact ⟨le_rfl, le_rfl, fun _ => rfl⟩
  | succ n ih =>
    obtain ⟨hr, rfl, -⟩ | ⟨hr, u, hu, hloop⟩ := runForLoop_succ_cases h
    · exact ⟨le_rfl, Nat.le_add_right _ _, fun ht => by simp [hr] at ht⟩
    · have hstep := step_count_of_running hr hu
      obtain ⟨hlow, hhigh, hexact⟩ := ih hloop
      refine ⟨by omega, by omega, fun ht => ?_⟩
      rw [hexact ht]
      omega

/-- Where the loop ended in a stopped VM, more fuel gives the same answer. -/
theorem runForLoop_add (h : runForLoop n last s = .next (t, v)) (ht : t.running = false) (m : Nat) :
    runForLoop (n + m) last s = .next (t, v) := by
  induction n generalizing last s with
  | zero =>
    cases h
    exact runForLoop_stopped _ _ ht
  | succ n ih =>
    obtain ⟨hr, rfl, rfl⟩ | ⟨hr, u, hu, hloop⟩ := runForLoop_succ_cases h
    · exact runForLoop_stopped _ _ hr
    · rw [Nat.succ_add, runForLoop_succ_of_step hr hu]
      exact ih hloop

/-! ### run_for and run -/

theorem runFor_stopped (n : Nat) (h : s.running = false) : runFor n s = .next (s, .halted) := by
  simp [runFor, runForLoop_stopped, h]

theorem runFor_reports (hr : s.running = true) (h : runFor n s = .next (t, v)) : Reports t.status v := by
  rw [runFor, if_pos hr] at h
  refine runForLoop_reports ?_ h
  rw [s.running_iff.1 hr]
  exact .running

/-- `run_for` starts no VM. -/
theorem running_of_runFor (h : runFor n s = .next (t, v)) (ht : t.running = true) : s.running = true := by
  by_contra hr
  rw [runFor_stopped n (Bool.eq_false_of_not_eq_true hr)] at h
  cases h
  exact hr ht

end

/-- Settles O55: the counter by induction on the loop; a VM that runs at the end ran from the start, so the value is
that of its status. -/
theorem runForIsBounded : Obligations.RunForIsBounded := by
  refine ⟨fun n s t v h => ?_, fun _ => rfl, fun n _ hr => runFor_stopped n hr⟩
  obtain ⟨hlow, hhigh, hexact⟩ := runForLoop_count h
  refine ⟨hlow, hhigh, fun ht => ?_⟩
  have hr := running_of_runFor h ht
  exact ⟨hr, hexact ht, (runFor_reports hr h).value_of_running ht⟩

/-- `run()` has one result: two runs that stopped answer alike with the fuel of both. -/
theorem RunReturns.unique {s t t' : State} {v v' : StepValue} (h : RunReturns s t v) (h' : RunReturns s t' v') :
    t = t' ∧ v = v' := by
  obtain ⟨n, hn, ht⟩ := h
  obtain ⟨m, hm, ht'⟩ := h'
  have heq := (runForLoop_add hn ht m).symm.trans (Nat.add_comm n m ▸ runForLoop_add hm ht' n)
  cases heq
  exact ⟨rfl, rfl⟩

/-- Settles O56: uniqueness is `RunReturns.unique`, and of the values a run reports Continue is that of a VM that still
runs. -/
theorem runReturnsOnceStopped : Obligations.RunReturnsOnceStopped := by
  refine ⟨fun _ _ _ _ _ => RunReturns.unique, ?_, fun s hr => ⟨0, runFor_stopped 0 hr, hr⟩⟩
  rintro s t v hr ⟨n, hn, ht⟩
  obtain ⟨hrun, -⟩ | hstopped := (runFor_reports hr hn).eq_cases
  · exact absurd hrun (State.running_eq_false_iff.1 ht)
  · exact hstopped

end Sys2Proof.Machine
